-- ==== Sys2Proof/Word.lean ====
section
/-! DEFINITION. The word and byte types of the bus core (00_scope.md R5): an address and a data word have 32 bits,
a byte has 8, every one of them unsigned (R11). -/

namespace Sys2Proof

/-- A 32-bit address or data word (R5). -/
abbrev Word := BitVec 32

/-- A byte (R5). -/
abbrev Byte := BitVec 8

/-- The bus address space has 2^32 byte addresses (R5). -/
abbrev addressSpaceSize : Nat := 4294967296

end Sys2Proof
end

