-- ==== Sys2Proof/Machine/Operands.lean ====
section
/-! DEFINITION. The one operand form with an inside: the data word, which RAM holds as four bytes, the most significant
at the lowest address (20_memory.md R50 to R52). No operand is sign-extended, scaled or shifted (30_encoding.md R86). -/

namespace Sys2Proof.Machine

/-- `BE_Decode`: the word of four bytes, `b0` the lowest-address byte (20_memory.md R51). -/
def beDecode (b0 b1 b2 b3 : Byte) : Word := b0 ++ b1 ++ b2 ++ b3

/-- Byte `k` of `BE_Encode v`, counted from the lowest offset (20_memory.md R52). -/
def beByte (v : Word) (k : Nat) : Byte := v.extractLsb' (24 - 8 * k) 8

/-- `BE_Encode`: the four bytes of a word, the first for the lowest offset (20_memory.md R52). -/
def beEncode (v : Word) : List Byte := [beByte v 0, beByte v 1, beByte v 2, beByte v 3]

end Sys2Proof.Machine
end

