-- ==== Sys2Proof/Syntax.lean ====
section
/-! DEFINITION. The five operations a user of the block can issue (30_encoding.md R80, R90), the closed sets their
operands range over (R81), and the reasons a request cannot be read as one of them (R85). -/

namespace Sys2Proof

/-- A collaborator's handle: opaque, compared with nothing by the block, only copied into events (R86). The number is
the caller's name for it. -/
structure Handle where
  name : Nat
deriving DecidableEq, Repr

/-- The three peripheral kinds (R81, 10_state.md R25). -/
inductive PeripheralKind where
  | display
  | audio
  | input
deriving DecidableEq, Repr

/-- The write handlers of a register (10_state.md R23). -/
inductive WriteHandler where
  | none
  | fwdDisplay
  | fwdAudio
  | rejectLog
deriving DecidableEq, Repr

/-- The read handlers of a register (10_state.md R23). -/
inductive ReadHandler where
  | none
  | pullInput
deriving DecidableEq, Repr

/-- The two phases of the block (00_scope.md R9). -/
inductive Phase where
  | construction
  | run
deriving DecidableEq, Repr

/-- The operations, one constructor for each row of the operation table (30_encoding.md R90). -/
inductive Instr where
  /-- `READ32 addr` (42_bus.md R120) -/
  | read32 (addr : Word)
  /-- `WRITE32 addr, wdata` (42_bus.md R121) -/
  | write32 (addr wdata : Word)
  /-- `CONNECT kind, handle` (42_bus.md R122) -/
  | connect (kind : PeripheralKind) (handle : Handle)
  /-- `MAPWINDOW base, length, region` (40_address_space.md R100) -/
  | mapwindow (base : Word) (length region : Nat)
  /-- `DEFREG addr, init, onWrite, onRead` (41_register_file.md R110) -/
  | defreg (addr init : Word) (onWrite : WriteHandler) (onRead : ReadHandler)
deriving DecidableEq, Repr

/-- The phase in which an operation may be issued (30_encoding.md R80, the column "phase"). -/
def Instr.phase : Instr → Phase
  | .read32 _ => .run
  | .write32 _ _ => .run
  | .connect _ _ => .run
  | .mapwindow _ _ _ => .construction
  | .defreg _ _ _ _ => .construction

/-- Why the bytes of a request name no operation. -/
inductive DecodeError where
  /-- An `op` code of 101, 110 or 111 (30_encoding.md R85). -/
  | reservedOp (op : Nat)
  /-- The code on the `kind` lines is none of the three kinds: not representable in the spec (R85). -/
  | unknownKind
  /-- The request has fewer bytes than its operands take. -/
  | truncated
deriving DecidableEq, Repr

end Sys2Proof
end

