-- ==== Sys2Proof/WellFormed.lean ====
section
/-! DEFINITION. The operands that fit their operand buses (30_encoding.md R81): a length is carried on 33 bits; a handle
and a region index on 32 bits, a width of the model's own (notes/assumptions/11.md, DESIGN CHOICE). -/

namespace Sys2Proof

/-- A window length fits its 33 bits (R81). A length of 0 or above 2^32 fits too: MAPWINDOW itself refuses it
(40_address_space.md R100 (a), (b)). -/
def lengthFits (length : Nat) : Bool := decide (length < 2 ^ 33)

/-- A region index fits its operand bus (DESIGN CHOICE, notes/assumptions/11.md). -/
def regionFits (region : Nat) : Bool := decide (region < 2 ^ 32)

/-- A handle fits its operand bus (DESIGN CHOICE, notes/assumptions/11.md). -/
def handleFits (h : Handle) : Bool := decide (h.name < 2 ^ 32)

/-- Every operand of the operation can be put on its operand bus. Every 32-bit `addr` and `wdata` is legal (R85). -/
def Instr.wellFormed : Instr → Bool
  | .read32 _ => true
  | .write32 _ _ => true
  | .connect _ h => handleFits h
  | .mapwindow _ length region => lengthFits length && regionFits region
  | .defreg _ _ _ _ => true

end Sys2Proof
end

