-- ==== Sys2Proof/Decode.lean ====
section
/-! DEFINITION. From the bytes of a request to an operation and back (30_encoding.md R81, R82, R85).

The spec fixes the 3-bit operation-select code; it puts the operands on buses of their own and fixes no order for their
bits. The model's order of the lines is a DESIGN CHOICE (notes/assumptions/6.md): byte 0 carries `op` in bits 2..0; the
operand buses of the operation's format follow, each in whole bytes, the most significant first:
  BUS        op, addr (4), wdata (4)
  HOST       op, kind (1), handle (4)
  MAPWINDOW  op, base (4), length (5), region (4)
  DEFREG     op, addr (4), init (4), onWrite (1), onRead (1)
A bit that belongs to no line (a byte's bits above its line) is read by nothing. -/

namespace Sys2Proof

/-- The operation-select code `op[2:0]` of an operation (R82). -/
def Instr.opCode : Instr → Nat
  | .read32 _ => 0
  | .write32 _ _ => 1
  | .connect _ _ => 2
  | .mapwindow _ _ _ => 3
  | .defreg _ _ _ _ => 4

/-- The code of a kind on its two lines (DESIGN CHOICE, notes/assumptions/6.md). -/
def PeripheralKind.code : PeripheralKind → Byte
  | .display => 0
  | .audio => 1
  | .input => 2

/-- The code of a write handler on its two lines (DESIGN CHOICE, notes/assumptions/6.md). -/
def WriteHandler.code : WriteHandler → Byte
  | .none => 0
  | .fwdDisplay => 1
  | .fwdAudio => 2
  | .rejectLog => 3

/-- The code of a read handler on its line (DESIGN CHOICE, notes/assumptions/6.md). -/
def ReadHandler.code : ReadHandler → Byte
  | .none => 0
  | .pullInput => 1

/-- The kind on the two lines, if it is one of the three. -/
def decodeKind (b : Byte) : Option PeripheralKind :=
  match b.toNat % 4 with
  | 0 => some .display
  | 1 => some .audio
  | 2 => some .input
  | _ => none

/-- The write handler on the two lines. -/
def decodeOnWrite (b : Byte) : WriteHandler :=
  match b.toNat % 4 with
  | 0 => .none
  | 1 => .fwdDisplay
  | 2 => .fwdAudio
  | _ => .rejectLog

/-- The read handler on the line. -/
def decodeOnRead (b : Byte) : ReadHandler :=
  match b.toNat % 2 with
  | 0 => .none
  | _ => .pullInput

/-- The value on the 33 lines of a length: bit 32 from the first byte, the rest from the other four (R81). -/
def decodeLength (top : Byte) (low : Word) : Nat := (top.toNat % 2) * 2 ^ 32 + low.toNat

/-- Operands of a BUS request (R81). -/
def decodeBus (args : List Byte) : Except DecodeError (Word × Word) :=
  match args with
  | a0 :: a1 :: a2 :: a3 :: d0 :: d1 :: d2 :: d3 :: _ =>
    .ok (Machine.beDecode a0 a1 a2 a3, Machine.beDecode d0 d1 d2 d3)
  | _ => .error .truncated

/-- READ32: `wdata` is ignored (R81). -/
def decodeRead32 (args : List Byte) : Except DecodeError Instr :=
  match decodeBus args with
  | .ok (addr, _) => .ok (.read32 addr)
  | .error e => .error e

/-- WRITE32. -/
def decodeWrite32 (args : List Byte) : Except DecodeError Instr :=
  match decodeBus args with
  | .ok (addr, wdata) => .ok (.write32 addr wdata)
  | .error e => .error e

/-- CONNECT. -/
def decodeConnect (args : List Byte) : Except DecodeError Instr :=
  match args with
  | k :: h0 :: h1 :: h2 :: h3 :: _ =>
    match decodeKind k with
    | some kind => .ok (.connect kind ⟨(Machine.beDecode h0 h1 h2 h3).toNat⟩)
    | none => .error .unknownKind
  | _ => .error .truncated

/-- MAPWINDOW. -/
def decodeMapwindow (args : List Byte) : Except DecodeError Instr :=
  match args with
  | b0 :: b1 :: b2 :: b3 :: l0 :: l1 :: l2 :: l3 :: l4 :: r0 :: r1 :: r2 :: r3 :: _ =>
    .ok (.mapwindow (Machine.beDecode b0 b1 b2 b3) (decodeLength l0 (Machine.beDecode l1 l2 l3 l4))
      (Machine.beDecode r0 r1 r2 r3).toNat)
  | _ => .error .truncated

/-- DEFREG. -/
def decodeDefreg (args : List Byte) : Except DecodeError Instr :=
  match args with
  | a0 :: a1 :: a2 :: a3 :: i0 :: i1 :: i2 :: i3 :: w :: r :: _ =>
    .ok (.defreg (Machine.beDecode a0 a1 a2 a3) (Machine.beDecode i0 i1 i2 i3) (decodeOnWrite w) (decodeOnRead r))
  | _ => .error .truncated

/-- The operation a request names, or why it names none (R82, R85). -/
def decode (request : List Byte) : Except DecodeError Instr :=
  match request with
  | [] => .error .truncated
  | op :: args =>
    match op.toNat % 8 with
    | 0 => decodeRead32 args
    | 1 => decodeWrite32 args
    | 2 => decodeConnect args
    | 3 => decodeMapwindow args
    | 4 => decodeDefreg args
    | code => .error (.reservedOp code)

/-- The bytes of an operation's request, in the order of lines above. READ32 drives zeros on the `wdata` lines. -/
def encode : Instr → List Byte
  | .read32 addr => 0x00#8 :: Machine.beEncode addr ++ Machine.beEncode 0
  | .write32 addr wdata => 0x01#8 :: Machine.beEncode addr ++ Machine.beEncode wdata
  | .connect kind h => 0x02#8 :: kind.code :: Machine.beEncode (BitVec.ofNat 32 h.name)
  | .mapwindow base length region =>
    0x03#8 :: Machine.beEncode base ++
      BitVec.ofNat 8 (length / 2 ^ 32 % 2) :: Machine.beEncode (BitVec.ofNat 32 length) ++
      Machine.beEncode (BitVec.ofNat 32 region)
  | .defreg addr init onWrite onRead =>
    0x04#8 :: Machine.beEncode addr ++ Machine.beEncode init ++ [onWrite.code, onRead.code]

/-- The longest request, MAPWINDOW's, in bytes. -/
def maxRequestBytes : Nat := 14

/-- The `n` bytes of `w` from the least significant on. -/
def lowBytes (w : Nat) : Nat → List Byte
  | 0 => []
  | n + 1 => BitVec.ofNat 8 w :: lowBytes (w / 256) n

/-- The request whose bits are the low `nbits` bits of `w`, bit 0 the least significant bit of byte 0, every bit above
them zero. -/
def requestOfBits (nbits w : Nat) : List Byte := lowBytes (w % 2 ^ nbits) maxRequestBytes

/-- The operation the decoder reads from a row's bits, numbered as spec/opcode_table.json numbers them. -/
def decodeTableWord (nbits w : Nat) : Option Instr :=
  match decode (requestOfBits nbits w) with
  | .ok i => some i
  | .error _ => none

end Sys2Proof
end

