-- ==== Sys2Proof/Config.lean ====
section
/-! DEFINITION. What no source gives and a model must not assume (00_scope.md R6): the seven addresses of the map and
the three initial register values, the conversion of the audio word, and the answer of a pull. Each is an opaque
constant, so a claim holds for every choice of it. -/

namespace Sys2Proof

/-- Size of RAM region 1, 24 MiB (R6). -/
abbrev S1 : Nat := 0x01800000

/-- Size of RAM region 2, 64 MiB (R6). -/
abbrev S2 : Nat := 0x04000000

/-- The OPEN parameters of the FLAMESSIM instance that are words (R6). -/
structure AddressMap where
  w1aBase : Word
  w1bBase : Word
  w2aBase : Word
  w2bBase : Word
  bgcolorAddr : Word
  inputAddr : Word
  audiofreqAddr : Word
  bgcolorInit : Word
  inputInit : Word
  audiofreqInit : Word
deriving DecidableEq, Repr

/-- An address lies in none of the four windows (42_bus.md R125 (e)). -/
abbrev AddressMap.outsideWindows (m : AddressMap) (a : Word) : Prop :=
  (a.toNat < m.w1aBase.toNat ∨ m.w1aBase.toNat + S1 ≤ a.toNat) ∧
  (a.toNat < m.w1bBase.toNat ∨ m.w1bBase.toNat + S1 ≤ a.toNat) ∧
  (a.toNat < m.w2aBase.toNat ∨ m.w2aBase.toNat + S2 ≤ a.toNat) ∧
  (a.toNat < m.w2bBase.toNat ∨ m.w2bBase.toNat + S2 ≤ a.toNat)

/-- A window of region 1 at `b1` and one of region 2 at `b2` share no address (42_bus.md R125 (b)). -/
abbrev AddressMap.apart (b1 b2 : Word) : Prop :=
  b1.toNat + S1 ≤ b2.toNat ∨ b2.toNat + S2 ≤ b1.toNat

/-- The premises (a) to (e) under which a model takes the OPEN parameters (42_bus.md R125). -/
abbrev AddressMap.Admissible (m : AddressMap) : Prop :=
  -- (a) every window ends at or below 2^32
  (m.w1aBase.toNat + S1 ≤ addressSpaceSize ∧ m.w1bBase.toNat + S1 ≤ addressSpaceSize ∧
    m.w2aBase.toNat + S2 ≤ addressSpaceSize ∧ m.w2bBase.toNat + S2 ≤ addressSpaceSize) ∧
  -- (b) windows of different regions are disjoint
  (AddressMap.apart m.w1aBase m.w2aBase ∧ AddressMap.apart m.w1aBase m.w2bBase ∧
    AddressMap.apart m.w1bBase m.w2aBase ∧ AddressMap.apart m.w1bBase m.w2bBase) ∧
  -- (c) the two windows of a region are distinct ranges, the lower one first
  (m.w1aBase.toNat + S1 ≤ m.w1bBase.toNat ∧ m.w2aBase.toNat + S2 ≤ m.w2bBase.toNat) ∧
  -- (d) the register addresses are pairwise different
  (m.bgcolorAddr ≠ m.inputAddr ∧ m.bgcolorAddr ≠ m.audiofreqAddr ∧ m.inputAddr ≠ m.audiofreqAddr) ∧
  -- (e) no register address lies in a window
  (m.outsideWindows m.bgcolorAddr ∧ m.outsideWindows m.inputAddr ∧ m.outsideWindows m.audiofreqAddr)

/-- An admissible choice of the OPEN parameters. -/
abbrev AdmissibleMap := { m : AddressMap // m.Admissible }

/-- The map TC0 of 95_test_vectors.md section 2. It only shows that an admissible map exists; nothing of the model
takes a value from it. -/
def testMap : AddressMap where
  w1aBase := 0x10000000#32
  w1bBase := 0x30000000#32
  w2aBase := 0x40000000#32
  w2bBase := 0x60000000#32
  bgcolorAddr := 0xF0000000#32
  inputAddr := 0xF0000004#32
  audiofreqAddr := 0xF0000008#32
  bgcolorInit := 0
  inputInit := 0
  audiofreqInit := 0

theorem testMap_admissible : testMap.Admissible := by decide

/-- A value of the audio collaborator's type `float`. No source names a float format (10_state.md R34), so the model
only numbers the values. -/
structure Hertz where
  code : Nat
deriving DecidableEq, Repr, Inhabited

/-- The hardware's own choice of the OPEN parameters: some admissible map, nothing more is known of it (R6, R125;
notes/assumptions/1.md). The argument only shows that there is one. -/
opaque Config.openParameters [Inhabited AdmissibleMap] : AdmissibleMap

/-- The address map and the initial values of the machine at hand (R6; notes/assumptions/1.md). -/
def Config.addressMap : AddressMap :=
  (@Config.openParameters ⟨⟨testMap, testMap_admissible⟩⟩).val

theorem Config.addressMap_admissible : Config.addressMap.Admissible :=
  (@Config.openParameters ⟨⟨testMap, testMap_admissible⟩⟩).property

/-- `AUDIO_WORD_TO_HZ`, an open total function of the word alone (10_state.md R34; notes/assumptions/8.md). -/
opaque Config.audioWordToHz : Word → Hertz

/-- The answer of `h.getButtonState()` to the pull with the given number: any 32-bit value, free on every pull
(41_register_file.md R118; notes/assumptions/7.md). -/
opaque Config.getButtonState : Handle → Nat → Word

end Sys2Proof
end

