-- ==== Sys2Proof/Machine/State.lean ====
section
/-! DEFINITION. The state of the block (10_state.md R20), the outputs and inputs at its ports that one step reads or
writes (00_scope.md R7, R14), the reasons a step can stop, and the state after reset (R40 to R45). -/

namespace Sys2Proof.Machine

/-- The bytes of one RAM region, keyed by region offset: offsets strictly rising, no entry equal to what an unlisted
offset reads as. -/
abbrev Memory := List Host.Cell

/-- A RamRegion: its size in bytes, fixed at construction, and its bytes `RAM[r][0 .. size-1]` (10_state.md R21). -/
structure Region where
  size : Nat
  ram : Memory
deriving DecidableEq, Repr

/-- An AddressWindow `(base, length, region)` (10_state.md R22). -/
structure Window where
  base : Word
  length : Nat
  region : Nat
deriving DecidableEq, Repr

/-- A register's descriptor `(addr, init, onWrite, onRead)` (10_state.md R23). -/
structure RegDesc where
  addr : Word
  init : Word
  onWrite : WriteHandler
  onRead : ReadHandler
deriving DecidableEq, Repr

/-- A register: its descriptor `reg[i]` and its 32-bit shadow value `shadow[i]` (10_state.md R23, R24). -/
structure IoRegister where
  desc : RegDesc
  shadow : Word
deriving DecidableEq, Repr

/-- The connections `conn[k]`, one for each peripheral kind (10_state.md R25). -/
structure Connections where
  display : Option Handle
  audio : Option Handle
  input : Option Handle
deriving DecidableEq, Repr

/-- The kind of a diagnostic event (00_scope.md R14). -/
inductive DiagKind where
  | unhandled
  | outOfRange
  | writeIgnored
deriving DecidableEq, Repr

/-- The operation a diagnostic event names (00_scope.md R14). -/
inductive Access where
  | read
  | write
deriving DecidableEq, Repr

/-- What the block sends out (00_scope.md R14). -/
inductive Event where
  /-- `Diag(kind, op, A)` at P_DIAG -/
  | diag (kind : DiagKind) (op : Access) (addr : Word)
  /-- `Call(h, setBackgroundColor, V)` at P_DISP -/
  | setBackgroundColor (h : Handle) (value : Word)
  /-- `Call(h, setToneFrequency, hz)` at P_AUD -/
  | setToneFrequency (h : Handle) (hz : Hertz)
  /-- `Pull(h, getButtonState, v)` at P_INP -/
  | getButtonState (h : Handle) (answer : Word)
deriving DecidableEq, Repr

/-- What the caller puts at the ports (00_scope.md R7, R8). -/
inductive PortInput where
  /-- One operation's request: its `op` code and operands (30_encoding.md R81). -/
  | request (bytes : List Byte)
  /-- P_CFG: the host begins CONSTRUCT with the sizes of the regions (42_bus.md R123). -/
  | beginConstruct (sizes : List Nat)
  /-- P_CFG: the host has listed every window and register; the partition check follows (42_bus.md R123). -/
  | endConstruct
deriving DecidableEq, Repr

/-- The state. The first four fields are the five pieces of 10_state.md R20 (RAM with its sizes, `win`, `reg` with
`shadow`, `conn`); the rest are the model's own (notes/assumptions/2.md to 7.md). -/
structure State where
  /-- `RAM[r]` and `size(r)`; region indices count from 0 (R21). -/
  regions : List Region
  /-- The window table, in registration order (R22). -/
  win : List Window
  /-- The register table with the shadow values, in definition order (R23, R24). -/
  reg : List IoRegister
  /-- The connections (R25). -/
  conn : Connections
  /-- The phase the block is in (00_scope.md R9). -/
  phase : Phase
  /-- The event trace, oldest first: output, read by no rule (00_scope.md R14, 10_state.md R26). -/
  trace : List Event
  /-- The response at P_BUS of the operation just performed: `rdata` after a READ32, none after any other (R7). -/
  rdata : Option Word
  /-- How many pulls have been made; it indexes the free answers (41_register_file.md R118). -/
  pulls : Nat
  /-- Answers fixed in advance for the next pulls by `input := v` (30_encoding.md R88). -/
  answers : List Word
  /-- What waits at the ports, next first: the caller's order (10_state.md R28). -/
  pending : List PortInput
deriving DecidableEq, Repr

/-- The one fatal event. -/
inductive Fault where
  /-- `ConfigurationError` (60_exceptions.md R203, R207): raised by MAPWINDOW, DEFREG and the end of CONSTRUCT.
  Construction is aborted and no bus exists afterwards, so there is no next state. Safe: the spec says so. -/
  | configurationError
deriving DecidableEq, Repr

/-- Why an input is given no meaning. -/
inductive Refusal where
  /-- Raised by `exec` for an operation without a meaning; no arm answers so. Safe. -/
  | notModelled (mnemonic : String)
  /-- Raised by a step whose request names no operation (30_encoding.md R85). Safe: the spec refuses it. -/
  | undecodable (why : DecodeError)
  /-- Raised by READ32, WRITE32 and CONNECT before construction has succeeded: there is no bus
  (30_encoding.md R85, 60_exceptions.md R207). Safe: the spec refuses it. -/
  | noBus
  /-- Raised by MAPWINDOW, DEFREG and the end of construction in the run phase (30_encoding.md R85). Safe: the spec
  refuses it. -/
  | constructionOver
  /-- Raised by the beginning of CONSTRUCT for a region size outside 1 .. 2^32 (42_bus.md R123, D25). Safe: such a
  configuration is no operand of CONSTRUCT. -/
  | regionSize
deriving DecidableEq, Repr

/-- The configuration record of CONSTRUCT (42_bus.md R123). -/
structure BusConfig where
  regions : List Nat
  windows : List Window
  registers : List RegDesc
deriving DecidableEq, Repr

/-- A region just created: every byte 0x00, so nothing is listed (10_state.md R40). -/
def Region.zeroed (size : Nat) : Region := { size := size, ram := [] }

/-- A register just defined: its shadow holds its initial value (10_state.md R42). -/
def RegDesc.fresh (d : RegDesc) : IoRegister := { desc := d, shadow := d.init }

/-- No peripheral is connected (10_state.md R43). -/
def Connections.unconnected : Connections := { display := none, audio := none, input := none }

/-- The state a successful CONSTRUCT leaves, as 10_state.md R40 to R44 give it item by item. The model's own fields:
the run phase, no response, no pull made, nothing at the ports. -/
def State.constructed (cfg : BusConfig) : State where
  regions := cfg.regions.map Region.zeroed
  win := cfg.windows
  reg := cfg.registers.map RegDesc.fresh
  conn := .unconnected
  phase := .run
  trace := []
  rdata := none
  pulls := 0
  answers := []
  pending := []

/-- The configuration of the FLAMESSIM instance over an address map (42_bus.md R125). -/
def flamessim (m : AddressMap) : BusConfig where
  regions := [S1, S2]
  windows := [⟨m.w1aBase, S1, 0⟩, ⟨m.w1bBase, S1, 0⟩, ⟨m.w2aBase, S2, 1⟩, ⟨m.w2bBase, S2, 1⟩]
  registers :=
    [⟨m.bgcolorAddr, m.bgcolorInit, .fwdDisplay, .none⟩,
     ⟨m.inputAddr, m.inputInit, .rejectLog, .pullInput⟩,
     ⟨m.audiofreqAddr, m.audiofreqInit, .fwdAudio, .none⟩]

/-- The machine right after reset: the FLAMESSIM instance just constructed (70_reset_and_hazards.md R230,
10_state.md R40 to R45), over the OPEN parameters of notes/assumptions/1.md. -/
def State.reset : State := State.constructed (flamessim Config.addressMap)

/-- No bus yet and nothing configured: where a host that constructs one through P_CFG begins. It is not the reset
state. -/
def State.blank : State where
  regions := []
  win := []
  reg := []
  conn := .unconnected
  phase := .construction
  trace := []
  rdata := none
  pulls := 0
  answers := []
  pending := []

end Sys2Proof.Machine
end

