-- ==== Sys2Proof/Machine/Ops.lean ====
section
/-! DEFINITION. The shared operations: memory, the window mapper, the register lookup, the address decoder, events, and
the one recovery that stands in for taking an exception (60_exceptions.md R206). -/

namespace Sys2Proof.Machine

/-! ### Memory -/

/-- What a byte that nothing has written reads as: regions are zero-initialised (10_state.md R21, R40). -/
def unwrittenByte : Byte := 0#8

/-- The canonical form: offsets strictly rising, no entry equal to what an unlisted offset reads as. -/
abbrev Memory.wf (m : Memory) : Prop :=
  m.Pairwise (fun a b => a.1 < b.1) ∧ ∀ c ∈ m, c.2 ≠ unwrittenByte

/-- The byte at an offset. -/
def Memory.read : Memory → Nat → Byte
  | [], _ => unwrittenByte
  | (a, b) :: rest, o => if a = o then b else Memory.read rest o

/-- The memory with no entry for an offset. -/
def Memory.erase (m : Memory) (o : Nat) : Memory := m.filter (fun c => decide (c.1 ≠ o))

/-- The memory with an entry put before the first one at a higher offset. -/
def Memory.insert : Memory → Nat → Byte → Memory
  | [], o, b => [(o, b)]
  | (a, x) :: rest, o, b => if o < a then (o, b) :: (a, x) :: rest else (a, x) :: Memory.insert rest o b

/-- The memory with one byte written, in canonical form again. -/
def Memory.write (m : Memory) (o : Nat) (b : Byte) : Memory :=
  if b = unwrittenByte then m.erase o else (m.erase o).insert o b

/-- The memory with the word `v` stored at offsets `o .. o+3`, high to low (40_address_space.md R102). -/
def Memory.writeWord (m : Memory) (o : Nat) (v : Word) : Memory :=
  (((m.write o (beByte v 0)).write (o + 1) (beByte v 1)).write (o + 2) (beByte v 2)).write (o + 3) (beByte v 3)

/-! ### Regions -/

/-- `size(r)`; a region that does not exist has no byte (notes/assumptions/13.md). -/
def State.regionSize (s : State) (r : Nat) : Nat :=
  match s.regions[r]? with
  | some g => g.size
  | none => 0

/-- `RAM[r][o]`, the observation of one byte (10_state.md R21, 30_encoding.md R88). -/
def State.ramByte (s : State) (r o : Nat) : Byte :=
  match s.regions[r]? with
  | some g => g.ram.read o
  | none => unwrittenByte

/-- The big-endian word at `RAM[r][off .. off+3]` (40_address_space.md R101). -/
def State.ramWord (s : State) (r off : Nat) : Word :=
  beDecode (s.ramByte r off) (s.ramByte r (off + 1)) (s.ramByte r (off + 2)) (s.ramByte r (off + 3))

/-- A region with a word stored. -/
def Region.writeWord (off : Nat) (v : Word) (g : Region) : Region := { g with ram := g.ram.writeWord off v }

/-- `RAM[r][off .. off+3] <- BE_Encode(v)` (40_address_space.md R102). -/
def State.writeRam (s : State) (r off : Nat) (v : Word) : State :=
  { s with regions := s.regions.modify r (Region.writeWord off v) }

/-! ### The window mapper (20_memory.md R61 to R63) -/

/-- Address `A` matches the window: `base <= A < base + length`, the sum not reduced (R61). -/
def Window.covers (w : Window) (A : Word) : Bool :=
  decide (w.base.toNat ≤ A.toNat ∧ A.toNat < w.base.toNat + w.length)

/-- The first window of a table, in registration order, that covers an address (R61). -/
def findWindowIn : List Window → Word → Option Window
  | [], _ => none
  | w :: rest, A => if w.covers A then some w else findWindowIn rest A

/-- `FindWindow(A)` (R61). -/
def State.findWindow (s : State) (A : Word) : Option Window := findWindowIn s.win A

/-- `Offset(w, A) = (A - w.base) mod size(region)` (R62). -/
def State.offset (s : State) (w : Window) (A : Word) : Nat :=
  (A.toNat - w.base.toNat) % s.regionSize w.region

/-- `InRange(r, off)`: `off + 4 <= size(r)`, without wrap-around (R63). -/
def State.inRange (s : State) (r off : Nat) : Bool := decide (off + 4 ≤ s.regionSize r)

/-! ### Registers (41_register_file.md R111) -/

/-- The index of the first register of a table at exactly an address (R111). -/
def findRegIn : List IoRegister → Word → Option Nat
  | [], _ => none
  | x :: rest, A => if x.desc.addr = A then some 0 else (findRegIn rest A).map (· + 1)

/-- `FindReg(A)` (R111). -/
def State.findReg (s : State) (A : Word) : Option Nat := findRegIn s.reg A

/-- `Shadow(i)`, the raw read: an observation, no port operation (10_state.md R38). -/
def State.shadow? (s : State) (i : Nat) : Option Word := (s.reg[i]?).map IoRegister.shadow

/-- `shadow[i] <- v` (10_state.md R24). -/
def State.setShadow (s : State) (i : Nat) (v : Word) : State :=
  { s with reg := s.reg.modify i (fun x => { x with shadow := v }) }

/-! ### The address decoder (30_encoding.md R83) -/

/-- The target of an address (R83). -/
inductive Target where
  | ram (region off : Nat)
  | ramOutOfRange (w : Window)
  | reg (i : Nat)
  | unmapped
deriving DecidableEq, Repr

/-- `Decode(A)`: windows first, registers second (R83). -/
def State.decodeAddress (s : State) (A : Word) : Target :=
  match s.findWindow A with
  | some w =>
    if s.inRange w.region (s.offset w A) then .ram w.region (s.offset w A) else .ramOutOfRange w
  | none =>
    match s.findReg A with
    | some i => .reg i
    | none => .unmapped

/-! ### Connections (10_state.md R25) -/

/-- `conn[k]`. -/
def Connections.get (c : Connections) : PeripheralKind → Option Handle
  | .display => c.display
  | .audio => c.audio
  | .input => c.input

/-- The connections with `conn[k] <- some h`. -/
def Connections.set (c : Connections) (k : PeripheralKind) (h : Handle) : Connections :=
  match k with
  | .display => { c with display := some h }
  | .audio => { c with audio := some h }
  | .input => { c with input := some h }

/-- `conn[k] <- some h` (42_bus.md R122). -/
def State.setConn (s : State) (k : PeripheralKind) (h : Handle) : State := { s with conn := s.conn.set k h }

/-! ### Outputs and the free input -/

/-- `emit e` (00_scope.md R14). -/
def State.emit (s : State) (e : Event) : State := { s with trace := s.trace ++ [e] }

/-- The response at P_BUS of the operation just performed (00_scope.md R7). -/
def State.respond (s : State) (v : Option Word) : State := { s with rdata := v }

/-- The recovery from a failing transaction, in the place of taking an exception: one `Diag` event that names the
kind, the operation and the address, and no other change (60_exceptions.md R206). There is no return from it (R209). -/
def State.recover (s : State) (kind : DiagKind) (op : Access) (A : Word) : State := s.emit (.diag kind op A)

/-- `draw_input()`: the answer fixed for this pull (30_encoding.md R88), else a free value
(41_register_file.md R118; notes/assumptions/7.md). -/
def State.drawInput (s : State) (h : Handle) : Word :=
  match s.answers with
  | v :: _ => v
  | [] => Config.getButtonState h s.pulls

/-- The pull has been made: its answer is used up. -/
def State.countPull (s : State) : State := { s with pulls := s.pulls + 1, answers := s.answers.tail }

/-! ### Sequencing -/

/-- One operation after another: the second runs from the state the first leaves, if it leaves one. -/
def andThen (o : Host.Outcome State Fault Refusal) (f : State → Host.Outcome State Fault Refusal) :
    Host.Outcome State Fault Refusal :=
  match o with
  | .next s => f s
  | .fault e => .fault e
  | .refused e => .refused e

end Sys2Proof.Machine
end

