-- ==== Sys2Proof/Machine/AddressSpace.lean ====
section
/-! DEFINITION. The AddressSpace: AS.READ32, AS.WRITE32 and MAPWINDOW (40_address_space.md). It makes no external call:
no operation of this file emits an event. -/

namespace Sys2Proof.Machine

/-- The two errors of a RAM access (60_exceptions.md R200 to R202). -/
inductive BusError where
  | unmapped
  | outOfRange
deriving DecidableEq, Repr

/-- `AS.READ32 A` (R101). -/
def State.asRead32 (s : State) (A : Word) : Except BusError Word :=
  match s.findWindow A with
  | none => .error .unmapped
  | some w =>
    if s.inRange w.region (s.offset w A) then .ok (s.ramWord w.region (s.offset w A)) else .error .outOfRange

/-- `AS.WRITE32 A, V` (R102): all four bytes, or none. -/
def State.asWrite32 (s : State) (A V : Word) : Except BusError State :=
  match s.findWindow A with
  | none => .error .unmapped
  | some w =>
    if s.inRange w.region (s.offset w A) then .ok (s.writeRam w.region (s.offset w A) V) else .error .outOfRange

/-- `IsPow2(n)`: `n = 2^k` for some `k` (00_scope.md R11). -/
def isPow2 (n : Nat) : Bool := decide (n ≠ 0) && decide (2 ^ n.log2 = n)

/-- `Overlap(w', base, length)`: the two ranges share an address (R103). -/
def Window.overlaps (w : Window) (base : Word) (length : Nat) : Bool :=
  decide (w.base.toNat < base.toNat + length ∧ base.toNat < w.base.toNat + w.length)

/-- None of the conditions (a), (b), (c) of R100 holds, for a region of size `S`. -/
def windowFits (S : Nat) (base : Word) (length : Nat) : Bool :=
  decide (length ≠ 0) && decide (base.toNat + length ≤ addressSpaceSize) &&
    (decide (length = S) || (isPow2 S && isPow2 length))

/-- Condition (d) of R100 does not hold: no window of another region overlaps the new one. -/
def State.windowClear (s : State) (base : Word) (length region : Nat) : Bool :=
  s.win.all (fun w => decide (w.region = region) || !w.overlaps base length)

/-- MAPWINDOW accepts the window: its region exists (42_bus.md R123) and R100 (a) to (d) raise nothing. -/
def State.windowOk (s : State) (base : Word) (length region : Nat) : Bool :=
  decide (region < s.regions.length) && windowFits (s.regionSize region) base length &&
    s.windowClear base length region

/-- `win <- win ++ [(base, length, region)]` (R100). -/
def State.addWindow (s : State) (base : Word) (length region : Nat) : State :=
  { s with win := s.win ++ [⟨base, length, region⟩] }

/-- `MAPWINDOW base, length, region` (R100): in the construction phase, the window is appended or
`ConfigurationError` aborts construction; in the run phase it is refused (30_encoding.md R85). -/
def execMapwindow (base : Word) (length region : Nat) (s : State) : Host.Outcome State Fault Refusal :=
  match s.phase with
  | .run => .refused .constructionOver
  | .construction =>
    if s.windowOk base length region then .next ((s.addWindow base length region).respond none)
    else .fault .configurationError

end Sys2Proof.Machine
end

