-- ==== Sys2Proof/Machine/RegisterFile.lean ====
section
/-! DEFINITION. The RegisterFile: the handlers, RF.READ32, RF.WRITE32 and DEFREG (41_register_file.md). -/

namespace Sys2Proof.Machine

/-! ### Handlers (R115 to R119) -/

/-- `FwdDisplay(V)` (R115): a connected display is called with the 32 bits unchanged; else nothing. -/
def State.fwdDisplay (s : State) (V : Word) : State :=
  match s.conn.display with
  | some h => s.emit (.setBackgroundColor h V)
  | none => s

/-- `FwdAudio(V)` (R116): a connected audio collaborator is called with `AUDIO_WORD_TO_HZ(V)`; else nothing. -/
def State.fwdAudio (s : State) (V : Word) : State :=
  match s.conn.audio with
  | some h => s.emit (.setToneFrequency h (Config.audioWordToHz V))
  | none => s

/-- `RejectLog(i)` for the register at `A` (R117): one `Diag(WriteIgnored, write, A)`; the shadow is unchanged. -/
def State.rejectLog (s : State) (A : Word) : State := s.emit (.diag .writeIgnored .write A)

/-- `PullInput(i)` for a register whose shadow is `shadow` (R118): the value answered and the state after the pull; with
no input connected, the shadow. -/
def State.pullInput (s : State) (shadow : Word) : Word × State :=
  match s.conn.input with
  | some h => (s.drawInput h, s.countPull.emit (.getButtonState h (s.drawInput h)))
  | none => (shadow, s)

/-! ### RF.READ32 and RF.WRITE32 (R112, R113) -/

/-- What a read of one register answers (R112). -/
def State.readRegister (s : State) (x : IoRegister) : Word × State :=
  match x.desc.onRead with
  | .none => (x.shadow, s)
  | .pullInput => s.pullInput x.shadow

/-- What a write to register `i` does (R113): the handler runs after the shadow is updated. -/
def State.writeRegister (s : State) (i : Nat) (x : IoRegister) (V : Word) : State :=
  match x.desc.onWrite with
  | .none => s.setShadow i V
  | .fwdDisplay => (s.setShadow i V).fwdDisplay V
  | .fwdAudio => (s.setShadow i V).fwdAudio V
  | .rejectLog => s.rejectLog x.desc.addr

/-- `RF.READ32 A` (R112): none when the address is unknown. -/
def State.rfRead32 (s : State) (A : Word) : Option (Word × State) :=
  match s.findReg A with
  | none => none
  | some i => (s.reg[i]?).map s.readRegister

/-- `RF.WRITE32 A, V` (R113): none when the address is unknown. -/
def State.rfWrite32 (s : State) (A V : Word) : Option State :=
  match s.findReg A with
  | none => none
  | some i => (s.reg[i]?).map (fun x => s.writeRegister i x V)

/-! ### DEFREG (R110) -/

/-- `reg <- reg ++ [(addr, init, onWrite, onRead)]`, `shadow <- shadow ++ [init]` (R110). -/
def State.addRegister (s : State) (d : RegDesc) : State := { s with reg := s.reg ++ [d.fresh] }

/-- `DEFREG addr, init, onWrite, onRead` (R110): in the construction phase, the register is appended, or a second
register at its address aborts construction; in the run phase it is refused (30_encoding.md R85). -/
def execDefreg (addr init : Word) (onWrite : WriteHandler) (onRead : ReadHandler) (s : State) :
    Host.Outcome State Fault Refusal :=
  match s.phase with
  | .run => .refused .constructionOver
  | .construction =>
    match s.findReg addr with
    | some _ => .fault .configurationError
    | none => .next ((s.addRegister ⟨addr, init, onWrite, onRead⟩).respond none)

end Sys2Proof.Machine
end

