-- ==== Sys2Proof/Machine/Construct.lean ====
section
/-! DEFINITION. CONSTRUCT (42_bus.md R123): its beginning and its end as inputs of port P_CFG, and the whole of it as one
function of a configuration record. It is the block's only reset (70_reset_and_hazards.md R230, R231). -/

namespace Sys2Proof.Machine

/-- A region has 1 to 2^32 bytes (R123). -/
def sizeOk (size : Nat) : Bool := decide (1 ≤ size) && decide (size ≤ 2 ^ 32)

/-- The regions are created, every byte 0x00, and the tables are empty (R123, first two lines). What stands at the
ports and the number of pulls made belong to the environment and stay. -/
def State.freshTables (s : State) (sizes : List Nat) : State :=
  { s with regions := sizes.map Region.zeroed, win := [], reg := [], phase := .construction, rdata := none }

/-- CONSTRUCT begins (R123). In the run phase the host constructs a new bus in the place of the old one, which shares
nothing with it (R231). In the construction phase, where the spec has P_CFG do CONSTRUCT once (R80, R123) and is silent
on a second beginning before the first has ended, the unfinished construction is abandoned: the regions, windows and
registers listed so far are dropped and CONSTRUCT starts again (DESIGN CHOICE, notes/assumptions/12.md). -/
def execBeginConstruct (sizes : List Nat) (s : State) : Host.Outcome State Fault Refusal :=
  if sizes.all sizeOk then .next (s.freshTables sizes) else .refused .regionSize

/-- The partition check: no register's address lies in a window (R123). -/
def State.partitionOk (s : State) : Bool :=
  s.reg.all (fun x => s.win.all (fun w => !w.covers x.desc.addr))

/-- No connection, an empty trace, and the run phase (R123, last three lines). -/
def State.enterRun (s : State) : State :=
  { s with conn := .unconnected, trace := [], phase := .run, rdata := none }

/-- CONSTRUCT ends: the partition check, then the run phase (R123). An end without a beginning, in a construction phase
that holds no region, ends a construction with no region (DESIGN CHOICE, notes/assumptions/12.md). -/
def execEndConstruct (s : State) : Host.Outcome State Fault Refusal :=
  match s.phase with
  | .run => .refused .constructionOver
  | .construction => if s.partitionOk then .next s.enterRun else .fault .configurationError

/-- `MAPWINDOW` for every window, in order (R123). -/
def mapWindows : List Window → State → Host.Outcome State Fault Refusal
  | [], s => .next s
  | w :: rest, s => andThen (execMapwindow w.base w.length w.region s) (mapWindows rest)

/-- `DEFREG` for every register, in order (R123). -/
def defineRegisters : List RegDesc → State → Host.Outcome State Fault Refusal
  | [], s => .next s
  | d :: rest, s => andThen (execDefreg d.addr d.init d.onWrite d.onRead s) (defineRegisters rest)

/-- `CONSTRUCT(cfg)`: a bus, or the error in place of one (R123, 60_exceptions.md R207). -/
def construct (cfg : BusConfig) (s : State) : Host.Outcome State Fault Refusal :=
  andThen (execBeginConstruct cfg.regions s) fun s1 =>
    andThen (mapWindows cfg.windows s1) fun s2 =>
      andThen (defineRegisters cfg.registers s2) execEndConstruct

end Sys2Proof.Machine
end

