-- ==== Sys2Proof/Machine/Bus.lean ====
section
/-! DEFINITION. The Bus: READ32, WRITE32 and CONNECT (42_bus.md R120 to R122). Every transaction completes and none
reports failure to the caller (60_exceptions.md R206). -/

namespace Sys2Proof.Machine

/-- The bus read (R120): `rdata` and the state after it. -/
def State.busRead32 (s : State) (A : Word) : Word × State :=
  match s.asRead32 A with
  | .ok v => (v, s)
  | .error .outOfRange => (0, s.recover .outOfRange .read A)
  | .error .unmapped =>
    match s.rfRead32 A with
    | some r => r
    | none => (0, s.recover .unhandled .read A)

/-- The bus write (R121): the state after it. -/
def State.busWrite32 (s : State) (A V : Word) : State :=
  match s.asWrite32 A V with
  | .ok s' => s'
  | .error .outOfRange => s.recover .outOfRange .write A
  | .error .unmapped =>
    match s.rfWrite32 A V with
    | some s' => s'
    | none => s.recover .unhandled .write A

/-- `READ32 addr` (R120); refused where there is no bus (30_encoding.md R85). -/
def execRead32 (addr : Word) (s : State) : Host.Outcome State Fault Refusal :=
  match s.phase with
  | .run => .next ((s.busRead32 addr).2.respond (some (s.busRead32 addr).1))
  | .construction => .refused .noBus

/-- `WRITE32 addr, wdata` (R121); refused where there is no bus (30_encoding.md R85). -/
def execWrite32 (addr wdata : Word) (s : State) : Host.Outcome State Fault Refusal :=
  match s.phase with
  | .run => .next ((s.busWrite32 addr wdata).respond none)
  | .construction => .refused .noBus

/-- `CONNECT kind, handle` (R122); refused where there is no bus (30_encoding.md R85). -/
def execConnect (kind : PeripheralKind) (handle : Handle) (s : State) : Host.Outcome State Fault Refusal :=
  match s.phase with
  | .run => .next ((s.setConn kind handle).respond none)
  | .construction => .refused .noBus

end Sys2Proof.Machine
end

