-- ==== Sys2Proof/Machine/Dispatch.lean ====
section
/-! DEFINITION. One arm for each operation (30_encoding.md R90). -/

namespace Sys2Proof.Machine

def exec (i : Instr) (s : State) : Host.Outcome State Fault Refusal :=
  match i with
  | .read32 addr => Sys2Proof.Machine.execRead32 addr s
  | .write32 addr wdata => Sys2Proof.Machine.execWrite32 addr wdata s
  | .connect kind handle => Sys2Proof.Machine.execConnect kind handle s
  | .mapwindow base length region => Sys2Proof.Machine.execMapwindow base length region s
  | .defreg addr init onWrite onRead => Sys2Proof.Machine.execDefreg addr init onWrite onRead s

end Sys2Proof.Machine
end

