-- ==== Sys2Proof/Machine/Ports.lean ====
section
/-! DEFINITION. What an input at the ports does (00_scope.md R7), and the phase an operation needs (30_encoding.md
R80). -/

namespace Sys2Proof.Machine

/-- One input at the ports is performed whole: an operation that is decoded from its request, or one of the two ends of
CONSTRUCT. -/
def perform (p : PortInput) (s : State) : Host.Outcome State Fault Refusal :=
  match p with
  | .request bytes =>
    match decode bytes with
    | .ok i => exec i s
    | .error e => .refused (.undecodable e)
  | .beginConstruct sizes => execBeginConstruct sizes s
  | .endConstruct => execEndConstruct s

/-- The configuration record as the caller puts it at P_CFG, one input after another, in the order of CONSTRUCT
(00_scope.md R7, 42_bus.md R123). -/
def BusConfig.script (cfg : BusConfig) : List PortInput :=
  .beginConstruct cfg.regions ::
    (cfg.windows.map (fun w => .request (encode (.mapwindow w.base w.length w.region))) ++
      (cfg.registers.map (fun d => .request (encode (.defreg d.addr d.init d.onWrite d.onRead))) ++
        [.endConstruct]))

/-- The state put into the phase in which an operation may be issued (30_encoding.md R80): for MAPWINDOW and DEFREG on
a finished bus, a new CONSTRUCT with the same region sizes has begun (notes/assumptions/16.md). -/
def State.inPhaseOf (s : State) (i : Instr) : State :=
  match i.phase, s.phase with
  | .construction, .run => s.freshTables (s.regions.map Region.size)
  | .construction, .construction => s
  | .run, _ => { s with phase := .run }

end Sys2Proof.Machine
end

