-- ==== Sys2Proof/Machine/Step.lean ====
section
/-! DEFINITION. One step: the next input at the ports is taken and performed whole (00_scope.md R9). -/

namespace Sys2Proof.Machine

/-- The state once the caller's next input has been taken from the ports. -/
def State.withPending (s : State) (rest : List PortInput) : State := { s with pending := rest }

/-- One step. With nothing at the ports nothing happens (notes/assumptions/5.md). -/
def step (s : State) : Host.Outcome State Fault Refusal :=
  match s.pending with
  | [] => .next s
  | p :: rest => perform p (s.withPending rest)

/-- `s` with the request of these bits next at the ports, in the phase in which its operation may be issued. -/
def State.withFetchWord (s : State) (nbits w : Nat) : State :=
  match decodeTableWord nbits w with
  | some i => (s.inPhaseOf i).withPending (.request (requestOfBits nbits w) :: s.pending)
  | none => s.withPending (.request (requestOfBits nbits w) :: s.pending)

end Sys2Proof.Machine
end

