-- ==== Sys2Proof/Safety.lean ====
section
/-! DEFINITION. The terms statements use: the invariant of a machine, what counts as the block's state and what as its
configuration, and scripts of operations. -/

namespace Sys2Proof.Machine

/-! ### The invariant -/

/-- A region is one CONSTRUCT can create, its bytes are in canonical form, and none lies outside it (10_state.md R21,
42_bus.md R123). -/
structure Region.Ok (g : Region) : Prop where
  size_ok : sizeOk g.size = true
  canonical : g.ram.wf
  inside : ∀ c ∈ g.ram, c.1 < g.size

/-- A window MAPWINDOW can have accepted, by R100 (a) to (c), onto a region that exists. -/
abbrev State.WindowOk (s : State) (w : Window) : Prop :=
  w.region < s.regions.length ∧ windowFits (s.regionSize w.region) w.base w.length = true

/-- Two windows that may stand in one table: onto one region, or without a common address (40_address_space.md
R100 (d), R104). -/
abbrev Window.Compatible (w w' : Window) : Prop := w.region = w'.region ∨ w.overlaps w'.base w'.length = false

/-- A register that rejects writes still holds its initial value (10_state.md R24, 41_register_file.md R117). -/
abbrev IoRegister.Kept (x : IoRegister) : Prop := x.desc.onWrite = .rejectLog → x.shadow = x.desc.init

/-- What every state of the block keeps. -/
structure State.Inv (s : State) : Prop where
  regions_ok : ∀ g ∈ s.regions, g.Ok
  windows_ok : ∀ w ∈ s.win, s.WindowOk w
  windows_compatible : s.win.Pairwise Window.Compatible
  addresses_distinct : s.reg.Pairwise (fun x y => x.desc.addr ≠ y.desc.addr)
  rejected_kept : ∀ x ∈ s.reg, x.Kept
  partition : s.phase = .run → s.partitionOk = true

/-! ### State and configuration -/

/-- The block's state (10_state.md R20) and its phase are the same; the outputs, the pulls made and what waits at the
ports may differ. -/
structure State.SameBlock (s t : State) : Prop where
  regions : t.regions = s.regions
  win : t.win = s.win
  reg : t.reg = s.reg
  conn : t.conn = s.conn
  phase : t.phase = s.phase

/-- The configuration a state holds: sizes, windows, descriptors (10_state.md R39). -/
def State.configuration (s : State) : BusConfig where
  regions := s.regions.map Region.size
  windows := s.win
  registers := s.reg.map IoRegister.desc

/-- A running FLAMESSIM bus over an address map (42_bus.md R125), whatever its RAM, shadows and connections hold. -/
structure State.Flamessim (s : State) (m : AddressMap) : Prop where
  running : s.phase = .run
  configured : s.configuration = flamessim m

/-- A configuration CONSTRUCT accepts, said of the record as a whole (42_bus.md R123, 40_address_space.md R100,
41_register_file.md R110). -/
structure BusConfig.Valid (cfg : BusConfig) : Prop where
  /-- (a), (b), (c) of R100, each window onto a region that exists -/
  windows_fit : ∀ w ∈ cfg.windows, ∃ S, cfg.regions[w.region]? = some S ∧
    w.length ≠ 0 ∧ w.base.toNat + w.length ≤ 2 ^ 32 ∧
    (w.length = S ∨ ((∃ k, S = 2 ^ k) ∧ ∃ k, w.length = 2 ^ k))
  /-- (d) of R100: no address in windows onto two regions -/
  windows_apart : ∀ w ∈ cfg.windows, ∀ w' ∈ cfg.windows, w.region ≠ w'.region →
    ∀ A : Nat, ¬ ((w.base.toNat ≤ A ∧ A < w.base.toNat + w.length) ∧
      (w'.base.toNat ≤ A ∧ A < w'.base.toNat + w'.length))
  /-- R110: no address twice -/
  registers_distinct : (cfg.registers.map RegDesc.addr).Nodup
  /-- the partition check of R123 -/
  registers_outside : ∀ d ∈ cfg.registers, ∀ w ∈ cfg.windows,
    ¬ (w.base.toNat ≤ d.addr.toNat ∧ d.addr.toNat < w.base.toNat + w.length)

/-- The two rows of the decode map for one window of the instance, at `base` over `S` bytes of the region with index
`r` (30_encoding.md R84). -/
def State.DecodesWindow (s : State) (base : Word) (S r : Nat) : Prop :=
  ∀ A : Word,
    (base.toNat ≤ A.toNat ∧ A.toNat ≤ base.toNat + S - 4 → s.decodeAddress A = .ram r (A.toNat - base.toNat)) ∧
    (base.toNat + S - 3 ≤ A.toNat ∧ A.toNat ≤ base.toNat + S - 1 → s.decodeAddress A = .ramOutOfRange ⟨base, S, r⟩)

/-! ### Scripts -/

/-- The operations of a script, performed in the order written (30_encoding.md R87). -/
def issue : List Instr → State → Host.Outcome State Fault Refusal
  | [], s => .next s
  | i :: rest, s => andThen (exec i s) (issue rest)

/-- The byte `RAM[r][o]` after one operation, given the byte before it: the latest write to touch the offset wins
(20_memory.md R68). The decoder is that of the configuration `s` holds. -/
def State.byteAfter (s : State) (r o : Nat) (before : Byte) (i : Instr) : Byte :=
  match i with
  | .write32 A V =>
    match s.decodeAddress A with
    | .ram r' off => if r' = r ∧ off ≤ o ∧ o < off + 4 then beByte V (o - off) else before
    | _ => before
  | _ => before

/-- An event is a call of the display collaborator. -/
def Event.isDisplayCall : Event → Bool
  | .setBackgroundColor _ _ => true
  | _ => false

/-- The shadow value of register `i` after one operation, given the value before it: the latest write to the register
wins, and a register that rejects writes keeps its value (20_memory.md R68, 41_register_file.md R117). The decoder is
that of the configuration `s` holds. -/
def State.shadowAfter (s : State) (i : Nat) (x : IoRegister) (before : Word) (op : Instr) : Word :=
  match op with
  | .write32 A V =>
    if s.decodeAddress A = .reg i ∧ x.desc.onWrite ≠ .rejectLog then V else before
  | _ => before

/-- The display connected after one operation, `c` before it (42_bus.md R122). -/
def displayAfter (c : Option Handle) : Instr → Option Handle
  | .connect .display h => some h
  | _ => c

/-- The call of the display that one operation causes on a bus whose background-colour register is at `colour`, the
display connected being `c`: one for a WRITE32 to that address while a display is connected, with the value written
(41_register_file.md R115). -/
def displayCall (colour : Word) (c : Option Handle) : Instr → List Event
  | .write32 A V =>
    match c with
    | some h => if A = colour then [.setBackgroundColor h V] else []
    | none => []
  | _ => []

/-- The calls of the display that a script causes, in order (95_test_vectors.md section 8, property 7). -/
def displayCalls (colour : Word) : Option Handle → List Instr → List Event
  | _, [] => []
  | c, op :: rest => displayCall colour c op ++ displayCalls colour (displayAfter c op) rest

/-- A `Diag` event. -/
def Event.isDiag : Event → Bool
  | .diag _ _ _ => true
  | _ => false

/-- A `Call` or `Pull` event. -/
def Event.isCollaborator (e : Event) : Bool := !e.isDiag

end Sys2Proof.Machine
end

