-- ==== Sys2Proof/Certificates/Slice0/Obligations.lean ====
section
/-! DEFINITION. The statements about the model, from the numbered rules of spec/. An equation `exec i s = .next t` says
that the operation completes, with the result it names and nothing else changed. -/

open Sys2Proof Sys2Proof.Machine

/-! ### The word codec -/

/-- R51: the decoder is the shift-and-or of the four zero-extended bytes, the first the most significant; its value is
unsigned. -/
def Obligations.WordDecoderIsShiftsAndOr : Prop :=
  (∀ b0 b1 b2 b3 : Byte,
    beDecode b0 b1 b2 b3 =
      (b0.setWidth 32 <<< 24) ||| (b1.setWidth 32 <<< 16) ||| (b2.setWidth 32 <<< 8) ||| b3.setWidth 32 ∧
    beDecode b0 b1 b2 b3 = b0 ++ b1 ++ b2 ++ b3 ∧
    (beDecode b0 b1 b2 b3).toNat = b0.toNat * 2 ^ 24 + b1.toNat * 2 ^ 16 + b2.toNat * 2 ^ 8 + b3.toNat ∧
    (beDecode b0 b1 b2 b3).toNat < 2 ^ 32) ∧
  beDecode 0xFF 0 0 0 = 0xFF000000#32

/-- R52: the coder's bytes, high to low, and the first of them at the lowest offset of memory. -/
def Obligations.WordCoderIsHighToLow : Prop :=
  ∀ v : BitVec 32,
    beEncode v =
      [(v >>> 24 &&& 0xFF).setWidth 8, (v >>> 16 &&& 0xFF).setWidth 8, (v >>> 8 &&& 0xFF).setWidth 8,
        (v &&& 0xFF).setWidth 8] ∧
    beEncode v = [v.extractLsb' 24 8, v.extractLsb' 16 8, v.extractLsb' 8 8, v.extractLsb' 0 8] ∧
    ∀ (m : Memory) (o k : Nat), k < 4 → (beEncode v)[k]? = some ((m.writeWord o v).read (o + k))

/-- R53: coder and decoder are inverse to each other. -/
def Obligations.WordCodecRoundTrip : Prop :=
  (∀ v : Word, beDecode (beByte v 0) (beByte v 1) (beByte v 2) (beByte v 3) = v) ∧
  ∀ b0 b1 b2 b3 : Byte, beEncode (beDecode b0 b1 b2 b3) = [b0, b1, b2, b3]

/-! ### The window mapper and the decoder -/

/-- R61: a window matches on the first byte address alone; FindWindow gives the first match in registration order; with
no match the AddressSpace answers Unmapped. In a state that keeps the invariant no window ends past 2^32. That the first
registered window wins, where two windows onto one region overlap, is the spec's own decision D6, its source fixing no
order (notes/assumptions/15.md). -/
def Obligations.FirstMatchingWindowIsFound : Prop :=
  ∀ (s : State) (A : Word),
    (∀ w, s.findWindow A = some w ↔
      ∃ before after, s.win = before ++ w :: after ∧
        (w.base.toNat ≤ A.toNat ∧ A.toNat < w.base.toNat + w.length) ∧
        ∀ v ∈ before, ¬ (v.base.toNat ≤ A.toNat ∧ A.toNat < v.base.toNat + v.length)) ∧
    (s.findWindow A = none ↔
      ∀ w ∈ s.win, ¬ (w.base.toNat ≤ A.toNat ∧ A.toNat < w.base.toNat + w.length)) ∧
    (s.findWindow A = none →
      s.asRead32 A = .error .unmapped ∧ ∀ V, s.asWrite32 A V = .error .unmapped) ∧
    (s.Inv → ∀ w ∈ s.win, w.base.toNat + w.length ≤ 2 ^ 32)

/-- R62: the offset is the mathematical remainder; a bit mask where the size is a power of two; the identity in a window
no longer than its region; the same for two addresses of the window a region's size apart. -/
def Obligations.OffsetIsRemainder : Prop :=
  ∀ (s : State) (w : Window) (A : Word),
    w.base.toNat ≤ A.toNat → A.toNat < w.base.toNat + w.length →
    s.offset w A = (A.toNat - w.base.toNat) % s.regionSize w.region ∧
    A.toNat - w.base.toNat < w.length ∧
    (∀ k, s.regionSize w.region = 2 ^ k →
      s.offset w A = (A.toNat - w.base.toNat) &&& (s.regionSize w.region - 1)) ∧
    (w.length ≤ s.regionSize w.region → s.offset w A = A.toNat - w.base.toNat) ∧
    ∀ A' : Word, A'.toNat = A.toNat + s.regionSize w.region → A'.toNat < w.base.toNat + w.length →
      s.offset w A' = s.offset w A

/-- R63: in range exactly when all four bytes lie in the region, without wrap-around; an access that is out of range is
answered OutOfRange and writes nothing; the bounds of the two regions of the instance. -/
def Obligations.RangeCheckIsExact : Prop :=
  (∀ (s : State) (r off : Nat),
    (s.inRange r off = true ↔ off + 4 ≤ s.regionSize r) ∧
    (s.inRange r off = true ↔ off + 3 < s.regionSize r) ∧
    (4 ≤ s.regionSize r → s.inRange r (s.regionSize r - 4) = true ∧ s.inRange r (s.regionSize r - 3) = false ∧
      s.inRange r (s.regionSize r - 2) = false ∧ s.inRange r (s.regionSize r - 1) = false) ∧
    (s.regionSize r < 4 → s.inRange r off = false)) ∧
  (∀ (s : State) (A V : Word) (w : Window), s.findWindow A = some w →
    s.regionSize w.region < s.offset w A + 4 →
    s.asRead32 A = .error .outOfRange ∧ s.asWrite32 A V = .error .outOfRange) ∧
  ∀ (m : AddressMap) (s : State) (off : Nat), s.Flamessim m →
    (s.inRange 0 off = true ↔ off ≤ 0x017FFFFC) ∧ (s.inRange 1 off = true ↔ off ≤ 0x03FFFFFC)

/-- R103: the overlap formula; for ranges that are not empty it holds exactly when they share an address; ranges that
only touch do not overlap. -/
def Obligations.OverlapIsASharedAddress : Prop :=
  ∀ (w : Window) (base : Word) (length : Nat),
    (w.overlaps base length = true ↔
      w.base.toNat < base.toNat + length ∧ base.toNat < w.base.toNat + w.length) ∧
    (w.length ≠ 0 → length ≠ 0 → (w.overlaps base length = true ↔
      ∃ A : Nat, (w.base.toNat ≤ A ∧ A < w.base.toNat + w.length) ∧ base.toNat ≤ A ∧ A < base.toNat + length)) ∧
    (w.base.toNat + w.length = base.toNat ∨ base.toNat + length = w.base.toNat → w.overlaps base length = false)

/-- R111: the lookup is by equality of the whole address, and in a state that keeps the invariant at most one register
answers to an address. -/
def Obligations.RegisterMatchIsExact : Prop :=
  ∀ (s : State) (A : Word), s.Inv →
    (∀ i, s.findReg A = some i ↔ ∃ x, s.reg[i]? = some x ∧ x.desc.addr = A) ∧
    (s.findReg A = none ↔ ∀ x ∈ s.reg, x.desc.addr ≠ A) ∧
    ∀ (i j : Nat) (x y : IoRegister), s.reg[i]? = some x → s.reg[j]? = some y →
      x.desc.addr = A → y.desc.addr = A → i = j

/-- R35, R124: on a running bus that keeps the invariant no address is both in a window and a register's, so decoding
registers first would give the same target. -/
def Obligations.DecodeOrderIsNotObservable : Prop :=
  ∀ (s : State) (A : Word), s.Inv → s.phase = .run →
    (∀ w i, s.findWindow A = some w → s.findReg A = some i → False) ∧
    s.decodeAddress A =
      match s.findReg A with
      | some i => .reg i
      | none =>
        match s.findWindow A with
        | some w =>
          if s.offset w A + 4 ≤ s.regionSize w.region then .ram w.region (s.offset w A) else .ramOutOfRange w
        | none => .unmapped

/-- R84: the whole decode map of the FLAMESSIM instance, for every admissible choice of its addresses. -/
def Obligations.FlamessimDecodeMap : Prop :=
  ∀ (m : AddressMap) (s : State), m.Admissible → s.Flamessim m →
    s.DecodesWindow m.w1aBase S1 0 ∧ s.DecodesWindow m.w1bBase S1 0 ∧
    s.DecodesWindow m.w2aBase S2 1 ∧ s.DecodesWindow m.w2bBase S2 1 ∧
    s.decodeAddress m.bgcolorAddr = .reg 0 ∧
    s.decodeAddress m.inputAddr = .reg 1 ∧
    s.decodeAddress m.audiofreqAddr = .reg 2 ∧
    ∀ A : Word, m.outsideWindows A → A ≠ m.bgcolorAddr → A ≠ m.inputAddr → A ≠ m.audiofreqAddr →
      s.decodeAddress A = .unmapped

/-! ### READ32 -/

/-- R101, R120: a read of an in-range RAM address answers the big-endian word there and changes nothing else. -/
def Obligations.ReadOfRamAnswersTheWord : Prop :=
  ∀ (s : State) (A : Word) (r off : Nat), s.phase = .run → s.decodeAddress A = .ram r off →
    exec (.read32 A) s = .next { s with
      rdata := some (beDecode (s.ramByte r off) (s.ramByte r (off + 1)) (s.ramByte r (off + 2)) (s.ramByte r (off + 3))) }

/-- R120, R206: a read of an out-of-range or unmapped address answers 0 and emits one Diag event of the matching kind;
nothing else changes. -/
def Obligations.ReadOfBadAddressAnswersZero : Prop :=
  ∀ (s : State) (A : Word), s.phase = .run →
    (∀ w, s.decodeAddress A = .ramOutOfRange w →
      exec (.read32 A) s =
        .next { s with rdata := some 0, trace := s.trace ++ [.diag .outOfRange .read A] }) ∧
    (s.decodeAddress A = .unmapped →
      exec (.read32 A) s =
        .next { s with rdata := some 0, trace := s.trace ++ [.diag .unhandled .read A] })

/-- R112, R114: a read of a register without a read handler answers its shadow and changes nothing else. -/
def Obligations.ReadOfRegisterAnswersItsShadow : Prop :=
  ∀ (s : State) (A : Word) (i : Nat) (x : IoRegister), s.phase = .run → s.decodeAddress A = .reg i →
    s.reg[i]? = some x → x.desc.onRead = .none →
    exec (.read32 A) s = .next { s with rdata := some x.shadow }

/-- R118: a read of a register that pulls the input. With an input connected, the answer v of the pull is returned
unchanged and one Pull event is emitted; v is any word at all (the answer fixed in advance, whichever it is, else the free
value of notes/assumptions/7.md). With none connected, the shadow is returned and nothing else changes. -/
def Obligations.ReadOfInputPullsTheAnswer : Prop :=
  ∀ (s : State) (A : Word) (i : Nat) (x : IoRegister), s.phase = .run → s.decodeAddress A = .reg i →
    s.reg[i]? = some x → x.desc.onRead = .pullInput →
    (∀ (h : Handle) (v : Word) (later : List Word), s.conn.input = some h →
      exec (.read32 A) { s with answers := v :: later } =
        .next { s with rdata := some v, trace := s.trace ++ [.getButtonState h v], pulls := s.pulls + 1,
                       answers := later }) ∧
    (∀ h : Handle, s.conn.input = some h →
      ∃ v, exec (.read32 A) s =
        .next { s with rdata := some v, trace := s.trace ++ [.getButtonState h v], pulls := s.pulls + 1,
                       answers := s.answers.tail }) ∧
    (s.conn.input = none → exec (.read32 A) s = .next { s with rdata := some x.shadow })

/-- R120: a read changes no piece of the block's state, whatever it reads; of the rest only the response, the trace and
the pulls may change. -/
def Obligations.ReadChangesNoState : Prop :=
  ∀ (s t : State) (A : Word), exec (.read32 A) s = .next t →
    s.SameBlock t ∧ (∀ r o, t.ramByte r o = s.ramByte r o) ∧ t.pending = s.pending

/-! ### WRITE32 -/

/-- R102, R121: a write to an in-range RAM address stores the word's four bytes, most significant first, and changes no
other byte of any region and nothing else of the state. -/
def Obligations.WriteToRamStoresFourBytes : Prop :=
  ∀ (s : State) (A V : Word) (r off : Nat), s.phase = .run → s.decodeAddress A = .ram r off →
    ∃ t, exec (.write32 A V) s = .next t ∧
      t.ramByte r off = V.extractLsb' 24 8 ∧ t.ramByte r (off + 1) = V.extractLsb' 16 8 ∧
      t.ramByte r (off + 2) = V.extractLsb' 8 8 ∧ t.ramByte r (off + 3) = V.extractLsb' 0 8 ∧
      (∀ r' o, ¬ (r' = r ∧ off ≤ o ∧ o < off + 4) → t.ramByte r' o = s.ramByte r' o) ∧
      t.configuration = s.configuration ∧ t.reg = s.reg ∧ t.conn = s.conn ∧ t.phase = s.phase ∧
      t.trace = s.trace ∧ t.rdata = none ∧ t.pulls = s.pulls ∧ t.answers = s.answers ∧ t.pending = s.pending

/-- R121, R206: a write to an out-of-range or unmapped address is dropped: one Diag event of the matching kind, and no
byte, shadow or connection changes. -/
def Obligations.WriteToBadAddressIsDropped : Prop :=
  ∀ (s : State) (A V : Word), s.phase = .run →
    (∀ w, s.decodeAddress A = .ramOutOfRange w →
      exec (.write32 A V) s =
        .next { s with rdata := none, trace := s.trace ++ [.diag .outOfRange .write A] }) ∧
    (s.decodeAddress A = .unmapped →
      exec (.write32 A V) s =
        .next { s with rdata := none, trace := s.trace ++ [.diag .unhandled .write A] })

/-- R113, R114: a write to a register without a write handler stores the value in its shadow and changes nothing
else. -/
def Obligations.WriteToPlainRegisterStores : Prop :=
  ∀ (s : State) (A V : Word) (i : Nat) (x : IoRegister), s.phase = .run → s.decodeAddress A = .reg i →
    s.reg[i]? = some x → x.desc.onWrite = .none →
    exec (.write32 A V) s = .next { s with reg := s.reg.set i { x with shadow := V }, rdata := none }

/-- R113, R115: a write to a register that forwards to the display stores the value, and then the display connected at
that time, if there is one, is called once with the 32 bits unchanged. Nothing else changes. (What a later CONNECT does
not tell the display is ConnectReplacesOneConnection, D14, notes/assumptions/14.md.) -/
def Obligations.ColourWriteCallsTheDisplay : Prop :=
  ∀ (s : State) (A V : Word) (i : Nat) (x : IoRegister), s.phase = .run → s.decodeAddress A = .reg i →
    s.reg[i]? = some x → x.desc.onWrite = .fwdDisplay →
    (∀ h, s.conn.display = some h →
      exec (.write32 A V) s =
        .next { s with reg := s.reg.set i { x with shadow := V }, rdata := none,
                       trace := s.trace ++ [.setBackgroundColor h V] }) ∧
    (s.conn.display = none →
      exec (.write32 A V) s = .next { s with reg := s.reg.set i { x with shadow := V }, rdata := none })

/-- R113, R116: a write to a register that forwards to the audio collaborator stores the value, and then the audio
collaborator connected at that time, if there is one, is called once with the converted word. Nothing else changes. -/
def Obligations.ToneWriteCallsTheAudio : Prop :=
  ∀ (s : State) (A V : Word) (i : Nat) (x : IoRegister), s.phase = .run → s.decodeAddress A = .reg i →
    s.reg[i]? = some x → x.desc.onWrite = .fwdAudio →
    (∀ h, s.conn.audio = some h →
      exec (.write32 A V) s =
        .next { s with reg := s.reg.set i { x with shadow := V }, rdata := none,
                       trace := s.trace ++ [.setToneFrequency h (Config.audioWordToHz V)] }) ∧
    (s.conn.audio = none →
      exec (.write32 A V) s = .next { s with reg := s.reg.set i { x with shadow := V }, rdata := none })

/-- R117: a write to a register that rejects writes returns normally and emits one WriteIgnored event at the register's
address, whatever is connected; the shadow is unchanged and no collaborator is called. -/
def Obligations.IgnoredWriteIsLogged : Prop :=
  ∀ (s : State) (A V : Word) (i : Nat) (x : IoRegister), s.phase = .run → s.decodeAddress A = .reg i →
    s.reg[i]? = some x → x.desc.onWrite = .rejectLog →
    x.desc.addr = A ∧
    exec (.write32 A V) s = .next { s with rdata := none, trace := s.trace ++ [.diag .writeIgnored .write A] }

/-- R58: windows onto one region reach the same bytes, so a write through one is read back through any of them; a write
through a window leaves every byte of every other region alone. -/
def Obligations.WindowsOntoOneRegionShareItsBytes : Prop :=
  ∀ (s : State) (A1 A2 V : Word) (w1 w2 : Window), s.phase = .run →
    s.findWindow A1 = some w1 → s.findWindow A2 = some w2 → s.inRange w1.region (s.offset w1 A1) = true →
    (w1.region = w2.region → s.offset w1 A1 = s.offset w2 A2 →
      ∃ t u, exec (.write32 A1 V) s = .next t ∧ exec (.read32 A2) t = .next u ∧ u.rdata = some V) ∧
    (w1.region ≠ w2.region →
      ∃ t, exec (.write32 A1 V) s = .next t ∧ ∀ o, t.ramByte w2.region o = s.ramByte w2.region o)

/-- R55: two writes two addresses apart, both in range in one window, leave the six bytes the rule lists, and the word at
the first address reads as the upper halves of the two values. -/
def Obligations.OverlappingWritesCombine : Prop :=
  ∀ (s : State) (A A2 V1 V2 : Word) (w : Window), s.phase = .run → A2.toNat = A.toNat + 2 →
    s.findWindow A = some w → s.findWindow A2 = some w →
    s.inRange w.region (s.offset w A) = true → s.inRange w.region (s.offset w A2) = true →
    ∃ t1 t2 t3, exec (.write32 A V1) s = .next t1 ∧ exec (.write32 A2 V2) t1 = .next t2 ∧
      (List.range 6).map (fun k => t2.ramByte w.region (s.offset w A + k)) =
        [V1.extractLsb' 24 8, V1.extractLsb' 16 8, V2.extractLsb' 24 8, V2.extractLsb' 16 8,
          V2.extractLsb' 8 8, V2.extractLsb' 0 8] ∧
      exec (.read32 A) t2 = .next t3 ∧
      t3.rdata = some (V1.extractLsb' 16 16 ++ V2.extractLsb' 16 16)

/-- R59: a write repeated leaves the block's state as one write leaves it, and repeats its events. -/
def Obligations.RepeatedWriteRepeatsOnlyItsEvents : Prop :=
  ∀ (s : State) (A V : Word), s.Inv → s.phase = .run →
    ∃ t u events, exec (.write32 A V) s = .next t ∧ exec (.write32 A V) t = .next u ∧ t.SameBlock u ∧
      t.trace = s.trace ++ events ∧ u.trace = t.trace ++ events

/-! ### CONNECT -/

/-- R122: CONNECT writes one connection and nothing else, and emits no event. -/
def Obligations.ConnectReplacesOneConnection : Prop :=
  ∀ (s : State) (k : PeripheralKind) (h : Handle), s.phase = .run →
    ∃ c : Connections, exec (.connect k h) s = .next { s with conn := c, rdata := none } ∧
      c.get k = some h ∧ ∀ k', k' ≠ k → c.get k' = s.conn.get k'

/-- R122: the last CONNECT of a kind wins. -/
def Obligations.LastConnectWins : Prop :=
  ∀ (s : State) (k : PeripheralKind) (h h' : Handle), s.phase = .run →
    andThen (exec (.connect k h) s) (exec (.connect k h')) = exec (.connect k h') s

/-! ### MAPWINDOW, DEFREG and CONSTRUCT -/

/-- R100: while the bus is constructed, a window that no condition of R100 rejects, onto a region that exists, is appended
last, and nothing else changes. -/
def Obligations.MapwindowAppendsTheWindow : Prop :=
  ∀ (s : State) (base : Word) (length region : Nat) (g : Region), s.phase = .construction →
    s.regions[region]? = some g →
    length ≠ 0 → base.toNat + length ≤ 2 ^ 32 →
    (length = g.size ∨ ((∃ k, g.size = 2 ^ k) ∧ ∃ k, length = 2 ^ k)) →
    (∀ w ∈ s.win, w.region ≠ region →
      ¬ (w.base.toNat < base.toNat + length ∧ base.toNat < w.base.toNat + w.length)) →
    exec (.mapwindow base length region) s =
      .next { s with win := s.win ++ [⟨base, length, region⟩], rdata := none }

/-- R100 (a) to (d), R123: each condition, and a region that does not exist, raises ConfigurationError. -/
def Obligations.MapwindowRaisesConfigurationError : Prop :=
  ∀ (s : State) (base : Word) (length region : Nat), s.phase = .construction →
    (s.regions[region]? = none ∨
      ∃ g, s.regions[region]? = some g ∧
        (length = 0 ∨ 2 ^ 32 < base.toNat + length ∨
          (length ≠ g.size ∧ ¬ ((∃ k, g.size = 2 ^ k) ∧ ∃ k, length = 2 ^ k)) ∨
          ∃ w ∈ s.win, w.region ≠ region ∧
            w.base.toNat < base.toNat + length ∧ base.toNat < w.base.toNat + w.length)) →
    exec (.mapwindow base length region) s = .fault .configurationError

/-- R110: while the bus is constructed, a register at a new address is appended with its shadow at its initial value; a
second register at an address raises ConfigurationError. -/
def Obligations.DefregAppendsTheRegister : Prop :=
  ∀ (s : State) (addr init : Word) (ow : WriteHandler) (ord : ReadHandler), s.phase = .construction →
    ((∀ x ∈ s.reg, x.desc.addr ≠ addr) →
      exec (.defreg addr init ow ord) s =
        .next { s with reg := s.reg ++ [⟨⟨addr, init, ow, ord⟩, init⟩], rdata := none }) ∧
    ((∃ x ∈ s.reg, x.desc.addr = addr) →
      exec (.defreg addr init ow ord) s = .fault .configurationError)

/-- R123: the interleaving of MAPWINDOW and DEFREG does not matter. -/
def Obligations.MapwindowAndDefregCommute : Prop :=
  ∀ (s : State) (base : Word) (length region : Nat) (addr init : Word) (ow : WriteHandler) (ord : ReadHandler),
    andThen (exec (.mapwindow base length region) s) (exec (.defreg addr init ow ord)) =
      andThen (exec (.defreg addr init ow ord) s) (exec (.mapwindow base length region))

/-- R85: an operation issued in the wrong phase is refused, and a reserved op code names no operation. That the phase is
held in State is DEDUCED (notes/assumptions/4.md); that a request waits in a list at the ports, and that `op` is bits
2..0 of its first byte, are the model's choices (notes/assumptions/5.md, 6.md). -/
def Obligations.OutOfPhaseAndReservedAreRefused : Prop :=
  (∀ (s : State) (i : Instr), i.phase = .construction → s.phase = .run →
    exec i s = .refused .constructionOver) ∧
  (∀ (s : State) (i : Instr), i.phase = .run → s.phase = .construction → exec i s = .refused .noBus) ∧
  ∀ (s : State) (op : Byte) (args : List Byte) (rest : List PortInput), 5 ≤ op.toNat % 8 →
    s.pending = .request (op :: args) :: rest →
    step s = .refused (.undecodable (.reservedOp (op.toNat % 8)))

/-- R123: a configuration with legal region sizes constructs exactly when it is valid, and then the state is the one R123
and R40 to R44 describe, whatever stood before; otherwise ConfigurationError is raised. (That CONSTRUCT may begin again
while an earlier one is unfinished, and what stays through it, are the model's, notes/assumptions/12.md.) -/
def Obligations.ConstructBuildsExactlyTheValid : Prop :=
  ∀ (cfg : BusConfig) (s : State), (∀ n ∈ cfg.regions, 1 ≤ n ∧ n ≤ 2 ^ 32) →
    (cfg.Valid →
      construct cfg s =
        .next { s with
          regions := cfg.regions.map (fun n => ⟨n, []⟩)
          win := cfg.windows
          reg := cfg.registers.map (fun d => ⟨d, d.init⟩)
          conn := ⟨none, none, none⟩
          phase := .run
          trace := []
          rdata := none }) ∧
    (¬ cfg.Valid → construct cfg s = .fault .configurationError)

/-- R125: every admissible address map makes a FLAMESSIM bus, in the state of R40 to R44. -/
def Obligations.FlamessimConstructs : Prop :=
  ∀ m : AddressMap, m.Admissible →
    (flamessim m).Valid ∧ construct (flamessim m) State.blank = .next (State.constructed (flamessim m))

/-- R7, R123: a valid configuration put at P_CFG one operation after another, each as its request, is constructed step by
step into the same state. (How a request's operands are laid out as bytes is the model's, notes/assumptions/6.md.) -/
def Obligations.StepsConstructTheBus : Prop :=
  ∀ cfg : BusConfig, (∀ n ∈ cfg.regions, 1 ≤ n ∧ n ≤ 2 ^ 32) → cfg.regions.length ≤ 2 ^ 32 → cfg.Valid →
    Sys2Proof.core.run (BusConfig.script cfg).length { State.blank with pending := BusConfig.script cfg } =
      .next (State.constructed cfg)

/-! ### Reset and the invariant -/

/-- R40 to R44: reset. Every byte of both regions is 0x00, the tables are those of R22 and R30 over an admissible map,
every shadow is at its initial value, nothing is connected, the trace is empty, and the block is in its run phase. -/
def Obligations.ResetIsTheConstructedInstance : Prop :=
  ∃ m : AddressMap, m.Admissible ∧ State.reset.Flamessim m ∧
    (∀ r o, State.reset.ramByte r o = 0) ∧
    State.reset.regions.map Region.size = [0x01800000, 0x04000000] ∧
    (∀ (i : Nat) (x : IoRegister), State.reset.reg[i]? = some x → x.shadow = x.desc.init) ∧
    (State.reset.shadow? 0 = some m.bgcolorInit ∧ State.reset.shadow? 1 = some m.inputInit ∧
      State.reset.shadow? 2 = some m.audiofreqInit) ∧
    (∀ k, State.reset.conn.get k = none) ∧ State.reset.trace = []

/-- The invariant holds at reset. -/
def Obligations.ResetMeetsTheInvariant : Prop := State.reset.Inv

/-- Every step keeps the invariant: memory in canonical form and inside its region, every window one that R100 accepts,
windows of different regions disjoint, register addresses distinct and, on a running bus, outside every window, and the
shadow of every register that rejects writes at its initial value. -/
def Obligations.StepKeepsTheInvariant : Prop :=
  ∀ s t : State, s.Inv → step s = .next t → t.Inv

/-- R9, R21: on a running bus no operation changes a region's size, the window table or a register's descriptor, or ends
the run phase. -/
def Obligations.RunKeepsTheConfiguration : Prop :=
  ∀ (ops : List Instr) (s t : State), s.phase = .run → issue ops s = .next t →
    t.configuration = s.configuration ∧ t.phase = .run

/-- R32: in every state a FLAMESSIM bus reaches by operations from its construction, the input-state register's shadow is
INPUT_INIT. -/
def Obligations.InputShadowNeverChanges : Prop :=
  ∀ (m : AddressMap) (ops : List Instr) (t : State), m.Admissible →
    issue ops (State.constructed (flamessim m)) = .next t → t.shadow? 1 = some m.inputInit

/-- R206: on a running bus every READ32, WRITE32 and CONNECT completes, whatever its operands; a script of them
completes too. -/
def Obligations.RunOperationsAlwaysComplete : Prop :=
  ∀ (ops : List Instr) (s : State), s.phase = .run → (∀ i ∈ ops, i.phase = .run) →
    ∃ t, issue ops s = .next t

/-! ### Whole scripts -/

/-- R68: after any script on a running bus, every RAM byte is the one stored by the latest WRITE32 of the script that
touched its offset through any window, or the byte it held before. -/
def Obligations.RamHoldsTheLatestWrite : Prop :=
  ∀ (ops : List Instr) (s t : State) (r o : Nat), s.phase = .run → issue ops s = .next t →
    t.ramByte r o = ops.foldl (s.byteAfter r o) (s.ramByte r o)

/-- R68: after any script on a running bus, a shadow is the value of the latest WRITE32 of the script to its register, or
the value it held before; a register that rejects writes keeps its value. -/
def Obligations.ShadowHoldsTheLatestWrite : Prop :=
  ∀ (ops : List Instr) (s t : State) (i : Nat) (x : IoRegister), s.phase = .run → s.reg[i]? = some x →
    issue ops s = .next t →
    t.reg[i]? = some { x with shadow := ops.foldl (s.shadowAfter i x) x.shadow }

/-- R113, R115, for the instance: the calls of the display in a script are exactly one for each WRITE32 to the
background-colour register issued while a display was connected, in order, to the display connected at that time, each
with the value written. That none is made at CONNECT is the spec's decision D14, assumed of the collaborator in
notes/assumptions/14.md. -/
def Obligations.DisplayCallsAreTheColourWrites : Prop :=
  ∀ (m : AddressMap) (ops : List Instr) (s t : State), m.Admissible → s.Flamessim m → issue ops s = .next t →
    t.trace.filter Event.isDisplayCall =
      s.trace.filter Event.isDisplayCall ++ displayCalls m.bgcolorAddr s.conn.display ops

/-- R58, R125: on the instance, a write through one window of a region is read back through its other window, at every
in-range offset, in both directions. -/
def Obligations.FlamessimWindowsMirrorEachOther : Prop :=
  ∀ (m : AddressMap) (s : State) (o : Nat) (V : Word), m.Admissible → s.Flamessim m →
    (o ≤ 0x017FFFFC → ∀ A B : Word,
      (A.toNat = m.w1aBase.toNat + o ∧ B.toNat = m.w1bBase.toNat + o) ∨
        (A.toNat = m.w1bBase.toNat + o ∧ B.toNat = m.w1aBase.toNat + o) →
      ∃ t u, exec (.write32 A V) s = .next t ∧ exec (.read32 B) t = .next u ∧ u.rdata = some V) ∧
    (o ≤ 0x03FFFFFC → ∀ A B : Word,
      (A.toNat = m.w2aBase.toNat + o ∧ B.toNat = m.w2bBase.toNat + o) ∨
        (A.toNat = m.w2bBase.toNat + o ∧ B.toNat = m.w2aBase.toNat + o) →
      ∃ t u, exec (.write32 A V) s = .next t ∧ exec (.read32 B) t = .next u ∧ u.rdata = some V)

/-- R14: an operation appends to the trace, and at most one Diag event and at most one Call or Pull event. -/
def Obligations.AtMostOneEventOfEachSort : Prop :=
  ∀ (i : Instr) (s t : State), exec i s = .next t →
    ∃ events, t.trace = s.trace ++ events ∧
      events.countP Event.isDiag ≤ 1 ∧ events.countP Event.isCollaborator ≤ 1

/-- R118: the input collaborator is asked once by each READ32 of a register that pulls, if one is connected, and by no
other operation. -/
def Obligations.PulledOnlyByInputReads : Prop :=
  ∀ (i : Instr) (s t : State), exec i s = .next t →
    (t.pulls = s.pulls + 1 ∧
      (∃ A k x h, i = .read32 A ∧ s.decodeAddress A = .reg k ∧ s.reg[k]? = some x ∧
        x.desc.onRead = .pullInput ∧ s.conn.input = some h)) ∨
    (t.pulls = s.pulls ∧ t.answers = s.answers ∧
      (∀ A k x h, i = .read32 A → s.decodeAddress A = .reg k → s.reg[k]? = some x →
        x.desc.onRead = .pullInput → s.conn.input = some h → False))

/-- R83, R126: what an operation does to RAM, the tables and the shadows does not depend on the connections, the trace,
the input's answers or an earlier response. -/
def Obligations.StorageIgnoresConnectionsAndOutputs : Prop :=
  ∀ (i : Instr) (s s' t : State), s'.regions = s.regions → s'.win = s.win → s'.reg = s.reg →
    s'.phase = s.phase → exec i s = .next t →
    ∃ t', exec i s' = .next t' ∧ t'.regions = t.regions ∧ t'.win = t.win ∧ t'.reg = t.reg ∧ t'.phase = t.phase

/-- R128: on a bus with no window and no register every read answers 0 and every write is dropped, each with its
Unhandled event. -/
def Obligations.EmptyBusAnswersZero : Prop :=
  ∀ (s : State) (A V : Word), s.phase = .run → s.win = [] → s.reg = [] →
    exec (.read32 A) s = .next { s with rdata := some 0, trace := s.trace ++ [.diag .unhandled .read A] } ∧
    exec (.write32 A V) s = .next { s with rdata := none, trace := s.trace ++ [.diag .unhandled .write A] }

/-- The canonical form of memory: two regions' bytes that read alike are equal data, and every store keeps the form. -/
def Obligations.CanonicalMemoryIsDeterminedByItsBytes : Prop :=
  (∀ m m' : Memory, m.wf → m'.wf → (∀ o, m.read o = m'.read o) → m = m') ∧
  ∀ (m : Memory) (o : Nat) (v : Word), m.wf → (m.writeWord o v).wf

/-! ### Requests -/

/-- R82: for every well-formed operation, decoding its request gives it back, operand by operand. (The layout of the
operands is the model's, notes/assumptions/6.md.) -/
def Obligations.DecodeOfEncodeIsTheOperation : Prop :=
  ∀ i : Instr, i.wellFormed = true → decode (encode i) = .ok i

/-- The op codes of R82 select the operations of the table, whatever the other five bits of the byte, and READ32 ignores
`wdata` (R81). (The layout of the operands is the model's, notes/assumptions/6.md.) -/
def Obligations.RequestBytesNameTheirOperations : Prop :=
  decode [0x00, 0x10, 0x00, 0x00, 0x02, 0xDE, 0xAD, 0xBE, 0xEF] = .ok (.read32 0x10000002#32) ∧
  decode [0x01, 0x10, 0x00, 0x00, 0x00, 0xDE, 0xAD, 0xBE, 0xEF] = .ok (.write32 0x10000000#32 0xDEADBEEF#32) ∧
  decode [0x02, 0x02, 0x00, 0x00, 0x00, 0x07] = .ok (.connect .input ⟨7⟩) ∧
  decode [0x03, 0x00, 0x00, 0x10, 0x00, 0x01, 0x00, 0x00, 0x00, 0x00, 0x00, 0x00, 0x00, 0x01] =
    .ok (.mapwindow 0x1000#32 0x100000000 1) ∧
  decode [0x04, 0x00, 0x00, 0x60, 0x04, 0xAB, 0xCD, 0x00, 0x00, 0x03, 0x01] =
    .ok (.defreg 0x6004#32 0xABCD0000#32 .rejectLog .pullInput) ∧
  decode [0xFA, 0x00, 0x00, 0x00, 0x00, 0x07] = .ok (.connect .display ⟨7⟩)

/-- R9: a step performs the next input at the ports whole: the operation its request decodes to, or an end of CONSTRUCT.
(The queue of inputs, and that a step with none changes nothing, are the model's, notes/assumptions/5.md.) -/
def Obligations.StepPerformsTheNextInput : Prop :=
  (∀ (s : State) (bytes : List Byte) (i : Instr) (rest : List PortInput),
    s.pending = .request bytes :: rest → decode bytes = .ok i → step s = exec i { s with pending := rest }) ∧
  (∀ (s : State) (sizes : List Nat) (rest : List PortInput), s.pending = .beginConstruct sizes :: rest →
    step s = execBeginConstruct sizes { s with pending := rest }) ∧
  (∀ (s : State) (rest : List PortInput), s.pending = .endConstruct :: rest →
    step s = execEndConstruct { s with pending := rest }) ∧
  ∀ s : State, s.pending = [] → step s = .next s
end

