-- ==== Sys2Proof/Laws/State.lean ====
section
/-! SUPPORT. One lemma for each field of State under each of its updates. -/

namespace Sys2Proof.Machine

/-! ### writeRam -/

@[simp] theorem State.writeRam_regions (s : State) (r off : Nat) (v : Word) :
    (s.writeRam r off v).regions = s.regions.modify r (Region.writeWord off v) := rfl
@[simp] theorem State.writeRam_win (s : State) (r off : Nat) (v : Word) :
    (s.writeRam r off v).win = s.win := rfl
@[simp] theorem State.writeRam_reg (s : State) (r off : Nat) (v : Word) :
    (s.writeRam r off v).reg = s.reg := rfl
@[simp] theorem State.writeRam_conn (s : State) (r off : Nat) (v : Word) :
    (s.writeRam r off v).conn = s.conn := rfl
@[simp] theorem State.writeRam_phase (s : State) (r off : Nat) (v : Word) :
    (s.writeRam r off v).phase = s.phase := rfl
@[simp] theorem State.writeRam_trace (s : State) (r off : Nat) (v : Word) :
    (s.writeRam r off v).trace = s.trace := rfl
@[simp] theorem State.writeRam_rdata (s : State) (r off : Nat) (v : Word) :
    (s.writeRam r off v).rdata = s.rdata := rfl
@[simp] theorem State.writeRam_pulls (s : State) (r off : Nat) (v : Word) :
    (s.writeRam r off v).pulls = s.pulls := rfl
@[simp] theorem State.writeRam_answers (s : State) (r off : Nat) (v : Word) :
    (s.writeRam r off v).answers = s.answers := rfl
@[simp] theorem State.writeRam_pending (s : State) (r off : Nat) (v : Word) :
    (s.writeRam r off v).pending = s.pending := rfl

/-! ### setShadow -/

@[simp] theorem State.setShadow_regions (s : State) (i : Nat) (v : Word) :
    (s.setShadow i v).regions = s.regions := rfl
@[simp] theorem State.setShadow_win (s : State) (i : Nat) (v : Word) :
    (s.setShadow i v).win = s.win := rfl
@[simp] theorem State.setShadow_reg (s : State) (i : Nat) (v : Word) :
    (s.setShadow i v).reg = s.reg.modify i (fun x => { x with shadow := v }) := rfl
@[simp] theorem State.setShadow_conn (s : State) (i : Nat) (v : Word) :
    (s.setShadow i v).conn = s.conn := rfl
@[simp] theorem State.setShadow_phase (s : State) (i : Nat) (v : Word) :
    (s.setShadow i v).phase = s.phase := rfl
@[simp] theorem State.setShadow_trace (s : State) (i : Nat) (v : Word) :
    (s.setShadow i v).trace = s.trace := rfl
@[simp] theorem State.setShadow_rdata (s : State) (i : Nat) (v : Word) :
    (s.setShadow i v).rdata = s.rdata := rfl
@[simp] theorem State.setShadow_pulls (s : State) (i : Nat) (v : Word) :
    (s.setShadow i v).pulls = s.pulls := rfl
@[simp] theorem State.setShadow_answers (s : State) (i : Nat) (v : Word) :
    (s.setShadow i v).answers = s.answers := rfl
@[simp] theorem State.setShadow_pending (s : State) (i : Nat) (v : Word) :
    (s.setShadow i v).pending = s.pending := rfl

/-! ### setConn -/

@[simp] theorem State.setConn_regions (s : State) (k : PeripheralKind) (h : Handle) :
    (s.setConn k h).regions = s.regions := rfl
@[simp] theorem State.setConn_win (s : State) (k : PeripheralKind) (h : Handle) :
    (s.setConn k h).win = s.win := rfl
@[simp] theorem State.setConn_reg (s : State) (k : PeripheralKind) (h : Handle) :
    (s.setConn k h).reg = s.reg := rfl
@[simp] theorem State.setConn_conn (s : State) (k : PeripheralKind) (h : Handle) :
    (s.setConn k h).conn = s.conn.set k h := rfl
@[simp] theorem State.setConn_phase (s : State) (k : PeripheralKind) (h : Handle) :
    (s.setConn k h).phase = s.phase := rfl
@[simp] theorem State.setConn_trace (s : State) (k : PeripheralKind) (h : Handle) :
    (s.setConn k h).trace = s.trace := rfl
@[simp] theorem State.setConn_rdata (s : State) (k : PeripheralKind) (h : Handle) :
    (s.setConn k h).rdata = s.rdata := rfl
@[simp] theorem State.setConn_pulls (s : State) (k : PeripheralKind) (h : Handle) :
    (s.setConn k h).pulls = s.pulls := rfl
@[simp] theorem State.setConn_answers (s : State) (k : PeripheralKind) (h : Handle) :
    (s.setConn k h).answers = s.answers := rfl
@[simp] theorem State.setConn_pending (s : State) (k : PeripheralKind) (h : Handle) :
    (s.setConn k h).pending = s.pending := rfl

/-! ### emit -/

@[simp] theorem State.emit_regions (s : State) (e : Event) :
    (s.emit e).regions = s.regions := rfl
@[simp] theorem State.emit_win (s : State) (e : Event) :
    (s.emit e).win = s.win := rfl
@[simp] theorem State.emit_reg (s : State) (e : Event) :
    (s.emit e).reg = s.reg := rfl
@[simp] theorem State.emit_conn (s : State) (e : Event) :
    (s.emit e).conn = s.conn := rfl
@[simp] theorem State.emit_phase (s : State) (e : Event) :
    (s.emit e).phase = s.phase := rfl
@[simp] theorem State.emit_trace (s : State) (e : Event) :
    (s.emit e).trace = s.trace ++ [e] := rfl
@[simp] theorem State.emit_rdata (s : State) (e : Event) :
    (s.emit e).rdata = s.rdata := rfl
@[simp] theorem State.emit_pulls (s : State) (e : Event) :
    (s.emit e).pulls = s.pulls := rfl
@[simp] theorem State.emit_answers (s : State) (e : Event) :
    (s.emit e).answers = s.answers := rfl
@[simp] theorem State.emit_pending (s : State) (e : Event) :
    (s.emit e).pending = s.pending := rfl

/-! ### respond -/

@[simp] theorem State.respond_regions (s : State) (v : Option Word) :
    (s.respond v).regions = s.regions := rfl
@[simp] theorem State.respond_win (s : State) (v : Option Word) :
    (s.respond v).win = s.win := rfl
@[simp] theorem State.respond_reg (s : State) (v : Option Word) :
    (s.respond v).reg = s.reg := rfl
@[simp] theorem State.respond_conn (s : State) (v : Option Word) :
    (s.respond v).conn = s.conn := rfl
@[simp] theorem State.respond_phase (s : State) (v : Option Word) :
    (s.respond v).phase = s.phase := rfl
@[simp] theorem State.respond_trace (s : State) (v : Option Word) :
    (s.respond v).trace = s.trace := rfl
@[simp] theorem State.respond_rdata (s : State) (v : Option Word) :
    (s.respond v).rdata = v := rfl
@[simp] theorem State.respond_pulls (s : State) (v : Option Word) :
    (s.respond v).pulls = s.pulls := rfl
@[simp] theorem State.respond_answers (s : State) (v : Option Word) :
    (s.respond v).answers = s.answers := rfl
@[simp] theorem State.respond_pending (s : State) (v : Option Word) :
    (s.respond v).pending = s.pending := rfl

/-! ### recover -/

@[simp] theorem State.recover_regions (s : State) (kind : DiagKind) (op : Access) (A : Word) :
    (s.recover kind op A).regions = s.regions := rfl
@[simp] theorem State.recover_win (s : State) (kind : DiagKind) (op : Access) (A : Word) :
    (s.recover kind op A).win = s.win := rfl
@[simp] theorem State.recover_reg (s : State) (kind : DiagKind) (op : Access) (A : Word) :
    (s.recover kind op A).reg = s.reg := rfl
@[simp] theorem State.recover_conn (s : State) (kind : DiagKind) (op : Access) (A : Word) :
    (s.recover kind op A).conn = s.conn := rfl
@[simp] theorem State.recover_phase (s : State) (kind : DiagKind) (op : Access) (A : Word) :
    (s.recover kind op A).phase = s.phase := rfl
@[simp] theorem State.recover_trace (s : State) (kind : DiagKind) (op : Access) (A : Word) :
    (s.recover kind op A).trace = s.trace ++ [.diag kind op A] := rfl
@[simp] theorem State.recover_rdata (s : State) (kind : DiagKind) (op : Access) (A : Word) :
    (s.recover kind op A).rdata = s.rdata := rfl
@[simp] theorem State.recover_pulls (s : State) (kind : DiagKind) (op : Access) (A : Word) :
    (s.recover kind op A).pulls = s.pulls := rfl
@[simp] theorem State.recover_answers (s : State) (kind : DiagKind) (op : Access) (A : Word) :
    (s.recover kind op A).answers = s.answers := rfl
@[simp] theorem State.recover_pending (s : State) (kind : DiagKind) (op : Access) (A : Word) :
    (s.recover kind op A).pending = s.pending := rfl

/-! ### countPull -/

@[simp] theorem State.countPull_regions (s : State) :
    s.countPull.regions = s.regions := rfl
@[simp] theorem State.countPull_win (s : State) :
    s.countPull.win = s.win := rfl
@[simp] theorem State.countPull_reg (s : State) :
    s.countPull.reg = s.reg := rfl
@[simp] theorem State.countPull_conn (s : State) :
    s.countPull.conn = s.conn := rfl
@[simp] theorem State.countPull_phase (s : State) :
    s.countPull.phase = s.phase := rfl
@[simp] theorem State.countPull_trace (s : State) :
    s.countPull.trace = s.trace := rfl
@[simp] theorem State.countPull_rdata (s : State) :
    s.countPull.rdata = s.rdata := rfl
@[simp] theorem State.countPull_pulls (s : State) :
    s.countPull.pulls = s.pulls + 1 := rfl
@[simp] theorem State.countPull_answers (s : State) :
    s.countPull.answers = s.answers.tail := rfl
@[simp] theorem State.countPull_pending (s : State) :
    s.countPull.pending = s.pending := rfl

/-! ### addWindow -/

@[simp] theorem State.addWindow_regions (s : State) (base : Word) (length region : Nat) :
    (s.addWindow base length region).regions = s.regions := rfl
@[simp] theorem State.addWindow_win (s : State) (base : Word) (length region : Nat) :
    (s.addWindow base length region).win = s.win ++ [⟨base, length, region⟩] := rfl
@[simp] theorem State.addWindow_reg (s : State) (base : Word) (length region : Nat) :
    (s.addWindow base length region).reg = s.reg := rfl
@[simp] theorem State.addWindow_conn (s : State) (base : Word) (length region : Nat) :
    (s.addWindow base length region).conn = s.conn := rfl
@[simp] theorem State.addWindow_phase (s : State) (base : Word) (length region : Nat) :
    (s.addWindow base length region).phase = s.phase := rfl
@[simp] theorem State.addWindow_trace (s : State) (base : Word) (length region : Nat) :
    (s.addWindow base length region).trace = s.trace := rfl
@[simp] theorem State.addWindow_rdata (s : State) (base : Word) (length region : Nat) :
    (s.addWindow base length region).rdata = s.rdata := rfl
@[simp] theorem State.addWindow_pulls (s : State) (base : Word) (length region : Nat) :
    (s.addWindow base length region).pulls = s.pulls := rfl
@[simp] theorem State.addWindow_answers (s : State) (base : Word) (length region : Nat) :
    (s.addWindow base length region).answers = s.answers := rfl
@[simp] theorem State.addWindow_pending (s : State) (base : Word) (length region : Nat) :
    (s.addWindow base length region).pending = s.pending := rfl

/-! ### addRegister -/

@[simp] theorem State.addRegister_regions (s : State) (d : RegDesc) :
    (s.addRegister d).regions = s.regions := rfl
@[simp] theorem State.addRegister_win (s : State) (d : RegDesc) :
    (s.addRegister d).win = s.win := rfl
@[simp] theorem State.addRegister_reg (s : State) (d : RegDesc) :
    (s.addRegister d).reg = s.reg ++ [d.fresh] := rfl
@[simp] theorem State.addRegister_conn (s : State) (d : RegDesc) :
    (s.addRegister d).conn = s.conn := rfl
@[simp] theorem State.addRegister_phase (s : State) (d : RegDesc) :
    (s.addRegister d).phase = s.phase := rfl
@[simp] theorem State.addRegister_trace (s : State) (d : RegDesc) :
    (s.addRegister d).trace = s.trace := rfl
@[simp] theorem State.addRegister_rdata (s : State) (d : RegDesc) :
    (s.addRegister d).rdata = s.rdata := rfl
@[simp] theorem State.addRegister_pulls (s : State) (d : RegDesc) :
    (s.addRegister d).pulls = s.pulls := rfl
@[simp] theorem State.addRegister_answers (s : State) (d : RegDesc) :
    (s.addRegister d).answers = s.answers := rfl
@[simp] theorem State.addRegister_pending (s : State) (d : RegDesc) :
    (s.addRegister d).pending = s.pending := rfl

/-! ### freshTables -/

@[simp] theorem State.freshTables_regions (s : State) (sizes : List Nat) :
    (s.freshTables sizes).regions = sizes.map Region.zeroed := rfl
@[simp] theorem State.freshTables_win (s : State) (sizes : List Nat) :
    (s.freshTables sizes).win = [] := rfl
@[simp] theorem State.freshTables_reg (s : State) (sizes : List Nat) :
    (s.freshTables sizes).reg = [] := rfl
@[simp] theorem State.freshTables_conn (s : State) (sizes : List Nat) :
    (s.freshTables sizes).conn = s.conn := rfl
@[simp] theorem State.freshTables_phase (s : State) (sizes : List Nat) :
    (s.freshTables sizes).phase = .construction := rfl
@[simp] theorem State.freshTables_trace (s : State) (sizes : List Nat) :
    (s.freshTables sizes).trace = s.trace := rfl
@[simp] theorem State.freshTables_rdata (s : State) (sizes : List Nat) :
    (s.freshTables sizes).rdata = none := rfl
@[simp] theorem State.freshTables_pulls (s : State) (sizes : List Nat) :
    (s.freshTables sizes).pulls = s.pulls := rfl
@[simp] theorem State.freshTables_answers (s : State) (sizes : List Nat) :
    (s.freshTables sizes).answers = s.answers := rfl
@[simp] theorem State.freshTables_pending (s : State) (sizes : List Nat) :
    (s.freshTables sizes).pending = s.pending := rfl

/-! ### enterRun -/

@[simp] theorem State.enterRun_regions (s : State) :
    s.enterRun.regions = s.regions := rfl
@[simp] theorem State.enterRun_win (s : State) :
    s.enterRun.win = s.win := rfl
@[simp] theorem State.enterRun_reg (s : State) :
    s.enterRun.reg = s.reg := rfl
@[simp] theorem State.enterRun_conn (s : State) :
    s.enterRun.conn = .unconnected := rfl
@[simp] theorem State.enterRun_phase (s : State) :
    s.enterRun.phase = .run := rfl
@[simp] theorem State.enterRun_trace (s : State) :
    s.enterRun.trace = [] := rfl
@[simp] theorem State.enterRun_rdata (s : State) :
    s.enterRun.rdata = none := rfl
@[simp] theorem State.enterRun_pulls (s : State) :
    s.enterRun.pulls = s.pulls := rfl
@[simp] theorem State.enterRun_answers (s : State) :
    s.enterRun.answers = s.answers := rfl
@[simp] theorem State.enterRun_pending (s : State) :
    s.enterRun.pending = s.pending := rfl

/-! ### withPending -/

@[simp] theorem State.withPending_regions (s : State) (p : List PortInput) :
    (s.withPending p).regions = s.regions := rfl
@[simp] theorem State.withPending_win (s : State) (p : List PortInput) :
    (s.withPending p).win = s.win := rfl
@[simp] theorem State.withPending_reg (s : State) (p : List PortInput) :
    (s.withPending p).reg = s.reg := rfl
@[simp] theorem State.withPending_conn (s : State) (p : List PortInput) :
    (s.withPending p).conn = s.conn := rfl
@[simp] theorem State.withPending_phase (s : State) (p : List PortInput) :
    (s.withPending p).phase = s.phase := rfl
@[simp] theorem State.withPending_trace (s : State) (p : List PortInput) :
    (s.withPending p).trace = s.trace := rfl
@[simp] theorem State.withPending_rdata (s : State) (p : List PortInput) :
    (s.withPending p).rdata = s.rdata := rfl
@[simp] theorem State.withPending_pulls (s : State) (p : List PortInput) :
    (s.withPending p).pulls = s.pulls := rfl
@[simp] theorem State.withPending_answers (s : State) (p : List PortInput) :
    (s.withPending p).answers = s.answers := rfl
@[simp] theorem State.withPending_pending (s : State) (p : List PortInput) :
    (s.withPending p).pending = p := rfl

/-! ### What a configuration leaves -/

@[simp] theorem Region.writeWord_size (off : Nat) (v : Word) (g : Region) : (Region.writeWord off v g).size = g.size := rfl
@[simp] theorem Region.writeWord_ram (off : Nat) (v : Word) (g : Region) :
    (Region.writeWord off v g).ram = g.ram.writeWord off v := rfl
@[simp] theorem Region.zeroed_size (n : Nat) : (Region.zeroed n).size = n := rfl
@[simp] theorem Region.zeroed_ram (n : Nat) : (Region.zeroed n).ram = [] := rfl
@[simp] theorem RegDesc.fresh_desc (d : RegDesc) : d.fresh.desc = d := rfl
@[simp] theorem RegDesc.fresh_shadow (d : RegDesc) : d.fresh.shadow = d.init := rfl

end Sys2Proof.Machine
end

