-- ==== Sys2Proof/Laws/Memory.lean ====
section
/-! SUPPORT. Memory: a read after a write, every other byte unchanged, and the canonical form kept. -/

namespace Sys2Proof.Machine

theorem Memory.read_eq_unwritten {m : Memory} {o : Nat} (h : ∀ c ∈ m, c.1 ≠ o) : m.read o = unwrittenByte := by
  induction m with
  | nil => rfl
  | cons c rest ih =>
    obtain ⟨a, b⟩ := c
    have ha : a ≠ o := h (a, b) (by simp)
    simp only [Memory.read, if_neg ha]
    exact ih fun c hc => h c (by simp [hc])

theorem Memory.mem_erase {m : Memory} {o : Nat} {c : Host.Cell} : c ∈ m.erase o ↔ c ∈ m ∧ c.1 ≠ o := by
  simp [Memory.erase, and_comm]

theorem Memory.read_erase_same (m : Memory) (o : Nat) : (m.erase o).read o = unwrittenByte :=
  Memory.read_eq_unwritten fun _ hc => (Memory.mem_erase.1 hc).2

theorem Memory.erase_cons (a : Nat) (x : Byte) (rest : Memory) (o : Nat) :
    Memory.erase ((a, x) :: rest) o = if a = o then Memory.erase rest o else (a, x) :: Memory.erase rest o := by
  by_cases h : a = o <;> simp [Memory.erase, h]

theorem Memory.read_erase_other (m : Memory) {o p : Nat} (h : p ≠ o) : (m.erase o).read p = m.read p := by
  induction m with
  | nil => rfl
  | cons c rest ih =>
    obtain ⟨a, b⟩ := c
    rw [Memory.erase_cons]
    split
    · next ha => rw [ih, Memory.read, if_neg (by omega)]
    · rw [Memory.read, Memory.read, ih]

theorem Memory.mem_insert {m : Memory} {o : Nat} {b : Byte} {c : Host.Cell} :
    c ∈ m.insert o b ↔ c = (o, b) ∨ c ∈ m := by
  induction m with
  | nil => simp [Memory.insert]
  | cons d rest ih =>
    obtain ⟨a, x⟩ := d
    by_cases h : o < a
    · simp [Memory.insert, h]
    · simp only [Memory.insert, if_neg h, List.mem_cons, ih]
      tauto

theorem Memory.read_insert_same {m : Memory} {o : Nat} {b : Byte} (h : ∀ c ∈ m, c.1 ≠ o) :
    (m.insert o b).read o = b := by
  induction m with
  | nil => simp [Memory.insert, Memory.read]
  | cons d rest ih =>
    obtain ⟨a, x⟩ := d
    have ha : a ≠ o := h (a, x) (by simp)
    by_cases hlt : o < a
    · simp [Memory.insert, hlt, Memory.read]
    · simp only [Memory.insert, if_neg hlt, Memory.read, if_neg ha]
      exact ih fun c hc => h c (by simp [hc])

theorem Memory.read_insert_other (m : Memory) {o p : Nat} (b : Byte) (h : p ≠ o) :
    (m.insert o b).read p = m.read p := by
  induction m with
  | nil => simp [Memory.insert, Memory.read, h.symm]
  | cons d rest ih =>
    obtain ⟨a, x⟩ := d
    by_cases hlt : o < a
    · simp [Memory.insert, hlt, Memory.read, h.symm]
    · simp only [Memory.insert, if_neg hlt, Memory.read, ih]

/-- A byte reads as what was last written to it. -/
theorem Memory.read_write_same (m : Memory) (o : Nat) (b : Byte) : (m.write o b).read o = b := by
  unfold Memory.write
  split
  · next h => rw [Memory.read_erase_same, h]
  · exact Memory.read_insert_same fun _ hc => (Memory.mem_erase.1 hc).2

/-- A write leaves every other byte alone. -/
theorem Memory.read_write_other (m : Memory) {o p : Nat} (b : Byte) (h : p ≠ o) :
    (m.write o b).read p = m.read p := by
  unfold Memory.write
  split
  · exact Memory.read_erase_other m h
  · rw [Memory.read_insert_other _ _ h, Memory.read_erase_other m h]

theorem Memory.read_write (m : Memory) (o p : Nat) (b : Byte) :
    (m.write o b).read p = if p = o then b else m.read p := by
  split
  · next h => rw [h, Memory.read_write_same]
  · next h => exact Memory.read_write_other m b h

/-- A word write sets its four bytes, high to low, and no other byte. -/
theorem Memory.read_writeWord (m : Memory) (o p : Nat) (v : Word) :
    (m.writeWord o v).read p = if o ≤ p ∧ p < o + 4 then beByte v (p - o) else m.read p := by
  simp only [Memory.writeWord, Memory.read_write]
  by_cases h : o ≤ p ∧ p < o + 4
  · rw [if_pos h]
    obtain ⟨k, rfl⟩ : ∃ k, p = o + k := ⟨p - o, by omega⟩
    have hk : k < 4 := by omega
    have : k = 0 ∨ k = 1 ∨ k = 2 ∨ k = 3 := by omega
    rcases this with rfl | rfl | rfl | rfl <;> simp
  · rw [if_neg h, if_neg (by omega), if_neg (by omega), if_neg (by omega), if_neg (by omega)]

/-! ### The canonical form -/

theorem Memory.erase_wf {m : Memory} (o : Nat) (h : m.wf) : (m.erase o).wf :=
  ⟨h.1.filter _, fun c hc => h.2 c (Memory.mem_erase.1 hc).1⟩

theorem Memory.insert_wf {m : Memory} {o : Nat} {b : Byte} (h : m.wf) (hb : b ≠ unwrittenByte)
    (ho : ∀ c ∈ m, c.1 ≠ o) : (m.insert o b).wf := by
  refine ⟨?_, fun c hc => ?_⟩
  · have hp := h.1
    clear h
    induction m with
    | nil => simp [Memory.insert]
    | cons d rest ih =>
      obtain ⟨a, x⟩ := d
      rw [List.pairwise_cons] at hp
      have ha : a ≠ o := ho (a, x) (by simp)
      by_cases hlt : o < a
      · simp only [Memory.insert, if_pos hlt, List.pairwise_cons, List.mem_cons]
        refine ⟨?_, hp⟩
        rintro c (rfl | hc)
        · exact hlt
        · exact Nat.lt_trans hlt (hp.1 c hc)
      · simp only [Memory.insert, if_neg hlt, List.pairwise_cons]
        refine ⟨fun c hc => ?_, ih (fun c hc => ho c (by simp [hc])) hp.2⟩
        rcases Memory.mem_insert.1 hc with rfl | hc
        · show a < o
          omega
        · exact hp.1 c hc
  · rcases Memory.mem_insert.1 hc with rfl | hc
    · exact hb
    · exact h.2 c hc

/-- A byte write keeps the canonical form. -/
theorem Memory.write_wf {m : Memory} (o : Nat) (b : Byte) (h : m.wf) : (m.write o b).wf := by
  unfold Memory.write
  split
  · exact Memory.erase_wf o h
  · next hb => exact Memory.insert_wf (Memory.erase_wf o h) hb fun _ hc => (Memory.mem_erase.1 hc).2

/-- A word write keeps the canonical form. -/
theorem Memory.writeWord_wf {m : Memory} (o : Nat) (v : Word) (h : m.wf) : (m.writeWord o v).wf :=
  Memory.write_wf _ _ (Memory.write_wf _ _ (Memory.write_wf _ _ (Memory.write_wf _ _ h)))

/-- An entry after a byte write is the byte written or was there before. -/
theorem Memory.mem_write {m : Memory} {o : Nat} {b : Byte} {c : Host.Cell} (h : c ∈ m.write o b) :
    c.1 = o ∨ c ∈ m := by
  unfold Memory.write at h
  split at h
  · exact Or.inr (Memory.mem_erase.1 h).1
  · rcases Memory.mem_insert.1 h with rfl | h
    · exact Or.inl rfl
    · exact Or.inr (Memory.mem_erase.1 h).1

/-- A word write lists no offset outside its four bytes that was not listed before. -/
theorem Memory.mem_writeWord {m : Memory} {o : Nat} {v : Word} {c : Host.Cell} (h : c ∈ m.writeWord o v) :
    (o ≤ c.1 ∧ c.1 < o + 4) ∨ c ∈ m := by
  rcases Memory.mem_write h with h | h
  · exact Or.inl (by omega)
  rcases Memory.mem_write h with h | h
  · exact Or.inl (by omega)
  rcases Memory.mem_write h with h | h
  · exact Or.inl (by omega)
  rcases Memory.mem_write h with h | h
  · exact Or.inl (by omega)
  · exact Or.inr h

/-- Reset's memory, and that of every region just created, is in canonical form. -/
theorem Region.zeroed_wf (n : Nat) : (Region.zeroed n).ram.wf :=
  ⟨List.Pairwise.nil, fun _ h => absurd h List.not_mem_nil⟩

end Sys2Proof.Machine
end

