-- ==== Sys2Proof/Laws/Ops.lean ====
section
/-! SUPPORT. For each shared operation, one lemma that says once what it can do; later proofs cite these and do not
unfold the operation. -/

namespace Sys2Proof.Machine

/-! ### The window mapper -/

theorem Window.covers_iff (w : Window) (A : Word) :
    w.covers A = true ↔ w.base.toNat ≤ A.toNat ∧ A.toNat < w.base.toNat + w.length := by
  simp [Window.covers]

theorem Window.overlaps_iff (w : Window) (base : Word) (length : Nat) :
    w.overlaps base length = true ↔ w.base.toNat < base.toNat + length ∧ base.toNat < w.base.toNat + w.length := by
  simp [Window.overlaps]

theorem findWindowIn_some {ws : List Window} {A : Word} {w : Window} (h : findWindowIn ws A = some w) :
    ∃ before after, ws = before ++ w :: after ∧ w.covers A = true ∧ ∀ v ∈ before, v.covers A = false := by
  induction ws with
  | nil => simp [findWindowIn] at h
  | cons v rest ih =>
    by_cases hv : v.covers A = true
    · simp only [findWindowIn, if_pos hv, Option.some.injEq] at h
      exact ⟨[], rest, by simp [h], h ▸ hv, by simp⟩
    · rw [findWindowIn, if_neg hv] at h
      obtain ⟨before, after, rfl, hw, hb⟩ := ih h
      refine ⟨v :: before, after, rfl, hw, ?_⟩
      rintro u (_ | ⟨_, hu⟩)
      · simpa using hv
      · exact hb u hu

theorem findWindowIn_mem {ws : List Window} {A : Word} {w : Window} (h : findWindowIn ws A = some w) :
    w ∈ ws ∧ w.covers A = true := by
  obtain ⟨before, after, rfl, hw, -⟩ := findWindowIn_some h
  exact ⟨by simp, hw⟩

theorem findWindowIn_none {ws : List Window} {A : Word} :
    findWindowIn ws A = none ↔ ∀ w ∈ ws, w.covers A = false := by
  induction ws with
  | nil => simp [findWindowIn]
  | cons v rest ih => by_cases hv : v.covers A = true <;> simp [findWindowIn, hv, ih]

/-! ### The register lookup -/

theorem findRegIn_some {xs : List IoRegister} {A : Word} {i : Nat} (h : findRegIn xs A = some i) :
    ∃ x, xs[i]? = some x ∧ x.desc.addr = A := by
  induction xs generalizing i with
  | nil => simp [findRegIn] at h
  | cons y rest ih =>
    by_cases hy : y.desc.addr = A
    · simp only [findRegIn, if_pos hy, Option.some.injEq] at h
      subst h
      exact ⟨y, rfl, hy⟩
    · rw [findRegIn, if_neg hy, Option.map_eq_some_iff] at h
      obtain ⟨j, hj, rfl⟩ := h
      obtain ⟨x, hx, ha⟩ := ih hj
      exact ⟨x, by simpa using hx, ha⟩

theorem findRegIn_none {xs : List IoRegister} {A : Word} :
    findRegIn xs A = none ↔ ∀ x ∈ xs, x.desc.addr ≠ A := by
  induction xs with
  | nil => simp [findRegIn]
  | cons y rest ih => by_cases hy : y.desc.addr = A <;> simp [findRegIn, hy, ih]

/-- The lookup reads only the addresses. -/
theorem findRegIn_congr {xs ys : List IoRegister} (h : xs.map IoRegister.desc = ys.map IoRegister.desc) (A : Word) :
    findRegIn xs A = findRegIn ys A := by
  induction xs generalizing ys with
  | nil => cases ys <;> simp_all
  | cons x rest ih =>
    cases ys with
    | nil => simp at h
    | cons y ys =>
      simp only [List.map_cons, List.cons.injEq] at h
      simp only [findRegIn, h.1, ih h.2]

/-! ### Regions -/

theorem State.regionSize_congr {s t : State} (h : s.regions.map Region.size = t.regions.map Region.size) (r : Nat) :
    s.regionSize r = t.regionSize r := by
  have := congrArg (fun l => l[r]?) h
  simp only [List.getElem?_map] at this
  unfold State.regionSize
  cases hs : s.regions[r]? <;> cases ht : t.regions[r]? <;> simp_all

theorem State.regionSize_pos {s : State} {r : Nat} (h : 0 < s.regionSize r) : r < s.regions.length := by
  by_contra hn
  rw [State.regionSize, List.getElem?_eq_none (by omega)] at h
  exact absurd h (by simp)

/-- A word store changes no size. -/
theorem State.writeRam_sizes (s : State) (r off : Nat) (v : Word) :
    (s.writeRam r off v).regions.map Region.size = s.regions.map Region.size := by
  apply List.ext_getElem?
  intro i
  simp only [State.writeRam_regions, List.getElem?_map, List.getElem?_modify]
  cases s.regions[i]? with
  | none => rfl
  | some g => simp only [Option.map_some]; split <;> rfl

/-- A word store sets four bytes of one region, if the region exists, and no other byte. -/
theorem State.ramByte_writeRam (s : State) (r off : Nat) (v : Word) (r' o : Nat) (hr : r < s.regions.length) :
    (s.writeRam r off v).ramByte r' o =
      if r' = r ∧ off ≤ o ∧ o < off + 4 then beByte v (o - off) else s.ramByte r' o := by
  unfold State.ramByte
  simp only [State.writeRam_regions, List.getElem?_modify]
  by_cases h : r' = r
  · subst h
    simp [List.getElem?_eq_getElem hr, Memory.read_writeWord]
  · have h' : ¬ r = r' := fun e => h e.symm
    simp only [if_neg h', h, false_and, if_false]
    cases s.regions[r']? <;> rfl

/-! ### The address decoder -/

/-- The decoder reads the window table, the register addresses and the sizes, and nothing else (30_encoding.md R83). -/
theorem State.decodeAddress_congr {s t : State} (h : s.configuration = t.configuration) (A : Word) :
    s.decodeAddress A = t.decodeAddress A := by
  simp only [State.configuration, BusConfig.mk.injEq] at h
  obtain ⟨hs, hw, hr⟩ := h
  simp only [State.decodeAddress, State.findWindow, State.findReg, State.inRange, State.offset, hw,
    findRegIn_congr hr, State.regionSize_congr hs]
  rfl

theorem State.decodeAddress_ram {s : State} {A : Word} {r off : Nat} (h : s.decodeAddress A = .ram r off) :
    ∃ w, s.findWindow A = some w ∧ w.region = r ∧ s.offset w A = off ∧ off + 4 ≤ s.regionSize r := by
  unfold State.decodeAddress at h
  split at h
  · next w hw =>
    split at h
    · next hin =>
      simp only [Target.ram.injEq] at h
      obtain ⟨rfl, rfl⟩ := h
      exact ⟨w, hw, rfl, rfl, by simpa [State.inRange] using hin⟩
    · cases h
  · split at h <;> cases h

theorem State.decodeAddress_ram_region {s : State} {A : Word} {r off : Nat} (h : s.decodeAddress A = .ram r off) :
    r < s.regions.length := by
  obtain ⟨w, -, rfl, -, hin⟩ := State.decodeAddress_ram h
  exact State.regionSize_pos (by omega)

theorem State.decodeAddress_ramOutOfRange {s : State} {A : Word} {w : Window}
    (h : s.decodeAddress A = .ramOutOfRange w) :
    s.findWindow A = some w ∧ s.inRange w.region (s.offset w A) = false := by
  unfold State.decodeAddress at h
  split at h
  · next v hv =>
    split at h
    · cases h
    · next hin =>
      simp only [Target.ramOutOfRange.injEq] at h
      subst h
      exact ⟨hv, by simpa using hin⟩
  · split at h <;> cases h

theorem State.decodeAddress_reg {s : State} {A : Word} {i : Nat} (h : s.decodeAddress A = .reg i) :
    s.findWindow A = none ∧ s.findReg A = some i := by
  unfold State.decodeAddress at h
  split at h
  · split at h <;> cases h
  · next hw =>
    split at h
    · next j hj => simp_all
    · cases h

theorem State.decodeAddress_unmapped {s : State} {A : Word} (h : s.decodeAddress A = .unmapped) :
    s.findWindow A = none ∧ s.findReg A = none := by
  unfold State.decodeAddress at h
  split at h
  · split at h <;> cases h
  · next hw =>
    split at h
    · cases h
    · next hn => exact ⟨hw, hn⟩

/-! ### The bus, by the decoder's target -/

theorem State.busRead32_ram {s : State} {A : Word} {r off : Nat} (h : s.decodeAddress A = .ram r off) :
    s.busRead32 A = (s.ramWord r off, s) := by
  obtain ⟨w, hw, rfl, rfl, hin⟩ := State.decodeAddress_ram h
  simp [State.busRead32, State.asRead32, hw, State.inRange, hin]

theorem State.busRead32_ramOutOfRange {s : State} {A : Word} {w : Window}
    (h : s.decodeAddress A = .ramOutOfRange w) :
    s.busRead32 A = (0, s.recover .outOfRange .read A) := by
  obtain ⟨hw, hin⟩ := State.decodeAddress_ramOutOfRange h
  simp [State.busRead32, State.asRead32, hw, hin]

theorem State.busRead32_reg {s : State} {A : Word} {i : Nat} (h : s.decodeAddress A = .reg i) :
    ∃ x, s.reg[i]? = some x ∧ x.desc.addr = A ∧ s.busRead32 A = s.readRegister x := by
  obtain ⟨hw, hr⟩ := State.decodeAddress_reg h
  obtain ⟨x, hx, ha⟩ := findRegIn_some hr
  exact ⟨x, hx, ha, by simp [State.busRead32, State.asRead32, hw, State.rfRead32, hr, hx]⟩

theorem State.busRead32_unmapped {s : State} {A : Word} (h : s.decodeAddress A = .unmapped) :
    s.busRead32 A = (0, s.recover .unhandled .read A) := by
  obtain ⟨hw, hr⟩ := State.decodeAddress_unmapped h
  simp [State.busRead32, State.asRead32, hw, State.rfRead32, hr]

theorem State.busWrite32_ram {s : State} {A V : Word} {r off : Nat} (h : s.decodeAddress A = .ram r off) :
    s.busWrite32 A V = s.writeRam r off V := by
  obtain ⟨w, hw, rfl, rfl, hin⟩ := State.decodeAddress_ram h
  simp [State.busWrite32, State.asWrite32, hw, State.inRange, hin]

theorem State.busWrite32_ramOutOfRange {s : State} {A V : Word} {w : Window}
    (h : s.decodeAddress A = .ramOutOfRange w) :
    s.busWrite32 A V = s.recover .outOfRange .write A := by
  obtain ⟨hw, hin⟩ := State.decodeAddress_ramOutOfRange h
  simp [State.busWrite32, State.asWrite32, hw, hin]

theorem State.busWrite32_reg {s : State} {A V : Word} {i : Nat} (h : s.decodeAddress A = .reg i) :
    ∃ x, s.reg[i]? = some x ∧ x.desc.addr = A ∧ s.busWrite32 A V = s.writeRegister i x V := by
  obtain ⟨hw, hr⟩ := State.decodeAddress_reg h
  obtain ⟨x, hx, ha⟩ := findRegIn_some hr
  exact ⟨x, hx, ha, by simp [State.busWrite32, State.asWrite32, hw, State.rfWrite32, hr, hx]⟩

theorem State.busWrite32_unmapped {s : State} {A V : Word} (h : s.decodeAddress A = .unmapped) :
    s.busWrite32 A V = s.recover .unhandled .write A := by
  obtain ⟨hw, hr⟩ := State.decodeAddress_unmapped h
  simp [State.busWrite32, State.asWrite32, hw, State.rfWrite32, hr]

/-! ### What each operation can do -/

theorem execRead32_next {A : Word} {s t : State} (h : execRead32 A s = .next t) :
    s.phase = .run ∧ t = (s.busRead32 A).2.respond (some (s.busRead32 A).1) := by
  unfold execRead32 at h
  split at h
  · next hp => exact ⟨hp, by simpa using h.symm⟩
  · cases h

theorem execWrite32_next {A V : Word} {s t : State} (h : execWrite32 A V s = .next t) :
    s.phase = .run ∧ t = (s.busWrite32 A V).respond none := by
  unfold execWrite32 at h
  split at h
  · next hp => exact ⟨hp, by simpa using h.symm⟩
  · cases h

theorem execConnect_next {k : PeripheralKind} {c : Handle} {s t : State} (h : execConnect k c s = .next t) :
    s.phase = .run ∧ t = (s.setConn k c).respond none := by
  unfold execConnect at h
  split at h
  · next hp => exact ⟨hp, by simpa using h.symm⟩
  · cases h

theorem execMapwindow_next {base : Word} {length region : Nat} {s t : State}
    (h : execMapwindow base length region s = .next t) :
    s.phase = .construction ∧ s.windowOk base length region = true ∧
      t = (s.addWindow base length region).respond none := by
  unfold execMapwindow at h
  split at h
  · cases h
  · next hp =>
    split at h
    · next hw => exact ⟨hp, hw, by simpa using h.symm⟩
    · cases h

theorem execDefreg_next {addr init : Word} {ow : WriteHandler} {ord : ReadHandler} {s t : State}
    (h : execDefreg addr init ow ord s = .next t) :
    s.phase = .construction ∧ s.findReg addr = none ∧
      t = (s.addRegister ⟨addr, init, ow, ord⟩).respond none := by
  unfold execDefreg at h
  split at h
  · cases h
  · next hp =>
    split at h
    · cases h
    · next hn => exact ⟨hp, hn, by simpa using h.symm⟩

theorem execBeginConstruct_next {sizes : List Nat} {s t : State} (h : execBeginConstruct sizes s = .next t) :
    sizes.all sizeOk = true ∧ t = s.freshTables sizes := by
  unfold execBeginConstruct at h
  split at h
  · next hs => exact ⟨hs, by simpa using h.symm⟩
  · cases h

theorem execEndConstruct_next {s t : State} (h : execEndConstruct s = .next t) :
    s.phase = .construction ∧ s.partitionOk = true ∧ t = s.enterRun := by
  unfold execEndConstruct at h
  split at h
  · cases h
  · next hp =>
    split at h
    · next hk => exact ⟨hp, hk, by simpa using h.symm⟩
    · cases h

theorem andThen_next {o : Host.Outcome State Fault Refusal} {f : State → Host.Outcome State Fault Refusal} {t : State}
    (h : andThen o f = .next t) : ∃ s, o = .next s ∧ f s = .next t := by
  unfold andThen at h
  split at h
  · next s => exact ⟨s, rfl, h⟩
  · cases h
  · cases h

/-- What an input at the ports that leaves a next state was. -/
theorem perform_next {p : PortInput} {s t : State} (h : perform p s = .next t) :
    (∃ bytes i, p = .request bytes ∧ decode bytes = .ok i ∧ exec i s = .next t) ∨
    (∃ sizes, p = .beginConstruct sizes ∧ execBeginConstruct sizes s = .next t) ∨
    (p = .endConstruct ∧ execEndConstruct s = .next t) := by
  unfold perform at h
  split at h
  · next bytes =>
    split at h
    · next i hi => exact Or.inl ⟨bytes, i, rfl, hi, h⟩
    · cases h
  · next sizes => exact Or.inr (Or.inl ⟨sizes, rfl, h⟩)
  · exact Or.inr (Or.inr ⟨rfl, h⟩)

/-- What a step that leaves a next state did: nothing, or the next input. -/
theorem step_next {s t : State} (h : step s = .next t) :
    (s.pending = [] ∧ t = s) ∨
    ∃ p rest, s.pending = p :: rest ∧ perform p (s.withPending rest) = .next t := by
  unfold step at h
  split at h
  · next hp => exact Or.inl ⟨hp, by simpa using h.symm⟩
  · next p rest hp => exact Or.inr ⟨p, rest, hp, h⟩

/-- A run of `n + 1` steps is a step and then a run of `n`. -/
theorem core_run_succ (n : Nat) (s : State) :
    Sys2Proof.core.run (n + 1) s = andThen (step s) (fun t => Sys2Proof.core.run n t) := by
  simp only [Host.Core.run]
  generalize h : Sys2Proof.core.step s = o
  rw [show step s = o from h]
  cases o <;> rfl

/-! ### What each operation is in its phase -/

theorem exec_read32_run {s : State} (A : Word) (h : s.phase = .run) :
    exec (.read32 A) s = .next ((s.busRead32 A).2.respond (some (s.busRead32 A).1)) := by
  simp only [exec, execRead32, h]

theorem exec_write32_run {s : State} (A V : Word) (h : s.phase = .run) :
    exec (.write32 A V) s = .next ((s.busWrite32 A V).respond none) := by
  simp only [exec, execWrite32, h]

theorem exec_connect_run {s : State} (k : PeripheralKind) (c : Handle) (h : s.phase = .run) :
    exec (.connect k c) s = .next ((s.setConn k c).respond none) := by
  simp only [exec, execConnect, h]

theorem exec_mapwindow_construction {s : State} (base : Word) (length region : Nat) (h : s.phase = .construction) :
    exec (.mapwindow base length region) s =
      if s.windowOk base length region then .next ((s.addWindow base length region).respond none)
      else .fault .configurationError := by
  simp only [exec, execMapwindow, h]

theorem exec_defreg_construction {s : State} (addr init : Word) (ow : WriteHandler) (ord : ReadHandler)
    (h : s.phase = .construction) :
    exec (.defreg addr init ow ord) s =
      match s.findReg addr with
      | some _ => .fault .configurationError
      | none => .next ((s.addRegister ⟨addr, init, ow, ord⟩).respond none) := by
  cases s
  cases h
  rfl

/-! ### The checks of construction -/

theorem isPow2_iff (n : Nat) : isPow2 n = true ↔ ∃ k, n = 2 ^ k := by
  simp only [isPow2, Bool.and_eq_true, decide_eq_true_eq]
  constructor
  · exact fun h => ⟨n.log2, h.2.symm⟩
  · rintro ⟨k, rfl⟩
    exact ⟨by positivity, by rw [Nat.log2_two_pow]⟩

theorem windowFits_iff (S : Nat) (base : Word) (length : Nat) :
    windowFits S base length = true ↔
      length ≠ 0 ∧ base.toNat + length ≤ 2 ^ 32 ∧
        (length = S ∨ ((∃ k, S = 2 ^ k) ∧ ∃ k, length = 2 ^ k)) := by
  simp [windowFits, addressSpaceSize, isPow2_iff, and_assoc]

theorem State.windowClear_iff (s : State) (base : Word) (length region : Nat) :
    s.windowClear base length region = true ↔
      ∀ w ∈ s.win, w.region ≠ region →
        ¬ (w.base.toNat < base.toNat + length ∧ base.toNat < w.base.toNat + w.length) := by
  simp only [State.windowClear, List.all_eq_true, Bool.or_eq_true, decide_eq_true_eq, Bool.not_eq_true',
    Window.overlaps, decide_eq_false_iff_not]
  exact forall₂_congr fun w _ => by tauto

theorem State.partitionOk_iff (s : State) :
    s.partitionOk = true ↔
      ∀ x ∈ s.reg, ∀ w ∈ s.win,
        ¬ (w.base.toNat ≤ x.desc.addr.toNat ∧ x.desc.addr.toNat < w.base.toNat + w.length) := by
  simp only [State.partitionOk, List.all_eq_true, Bool.not_eq_true', Window.covers, decide_eq_false_iff_not]

end Sys2Proof.Machine
end

