-- ==== Sys2Proof/Laws/PerInstr.lean ====
section
/-! SUPPORT. What is said of every operation as syntax, one lemma for each constructor. -/

namespace Sys2Proof.Laws

/-- The request of an operation carries its operation-select code on the three `op` lines (30_encoding.md R82) and is no
longer than the longest request. -/
def OpSelect.Statement (i : Instr) : Prop :=
  (∃ op args, encode i = op :: args ∧ op.toNat % 8 = i.opCode) ∧ (encode i).length ≤ maxRequestBytes

theorem OpSelect.read32 (addr : Word) : OpSelect.Statement (.read32 addr) := ⟨⟨_, _, rfl, rfl⟩, Nat.le_of_ble_eq_true rfl⟩

theorem OpSelect.write32 (addr wdata : Word) : OpSelect.Statement (.write32 addr wdata) :=
  ⟨⟨_, _, rfl, rfl⟩, Nat.le_of_ble_eq_true rfl⟩

theorem OpSelect.connect (kind : PeripheralKind) (handle : Handle) : OpSelect.Statement (.connect kind handle) :=
  ⟨⟨_, _, rfl, rfl⟩, Nat.le_of_ble_eq_true rfl⟩

theorem OpSelect.mapwindow (base : Word) (length region : Nat) : OpSelect.Statement (.mapwindow base length region) :=
  ⟨⟨_, _, rfl, rfl⟩, Nat.le_of_ble_eq_true rfl⟩

theorem OpSelect.defreg (addr init : Word) (onWrite : WriteHandler) (onRead : ReadHandler) :
    OpSelect.Statement (.defreg addr init onWrite onRead) := ⟨⟨_, _, rfl, rfl⟩, Nat.le_of_ble_eq_true rfl⟩

end Sys2Proof.Laws
end

