-- ==== Sys2Proof/Tests/Slice0.lean ====
section
/-! SUPPORT. Tests. Expected results come from 95_test_vectors.md (its configurations TC0 and TC1 and its derived vectors)
and from the layout of notes/assumptions/6.md; the witnesses show that the hypotheses of each statement can be met. -/

namespace Sys2Proof.Tests

open Sys2Proof Sys2Proof.Machine

/-! ### Small states -/

/-- TC1 of 95_test_vectors.md section 2. -/
def tc1Config : BusConfig where
  regions := [16, 12]
  windows := [⟨0x1000, 0x10, 0⟩, ⟨0x2000, 0x40, 0⟩, ⟨0x3000, 0x08, 0⟩, ⟨0x4000, 0x0C, 1⟩, ⟨0x5000, 0x0C, 1⟩]
  registers :=
    [⟨0x6000, 0x000000FF, .fwdDisplay, .none⟩, ⟨0x6004, 0x00000000, .rejectLog, .pullInput⟩,
     ⟨0x6008, 0x000001B8, .fwdAudio, .none⟩, ⟨0x600C, 0x12345678, .none, .none⟩]

/-- TC1 just constructed. -/
def tc1 : State := State.constructed tc1Config

/-- TC1 with DE AD BE EF at offsets 0 to 3 of region 0. -/
def tc1Filled : State :=
  { tc1 with regions := [⟨16, [(0, 0xDE), (1, 0xAD), (2, 0xBE), (3, 0xEF)]⟩, ⟨12, []⟩] }

/-- TC1 with the three peripherals connected and one answer fixed for the next pull. -/
def tc1Connected : State :=
  { tc1 with conn := ⟨some ⟨1⟩, some ⟨2⟩, some ⟨3⟩⟩, answers := [0x80000011] }

/-- TC0 just constructed. -/
def tc0 : State := State.constructed (flamessim testMap)

/-- Regions of 16, 12 and 2 bytes, one window onto region 0 and one register, not yet finished. -/
def building : State :=
  { State.blank with regions := [⟨16, []⟩, ⟨12, []⟩, ⟨2, []⟩], win := [⟨0x1000, 0x10, 0⟩],
                     reg := [⟨⟨0x6000, 1, .none, .none⟩, 1⟩] }

/-- The state an outcome leaves, if it leaves one. -/
def after (o : Host.Outcome State Fault Refusal) : Option State :=
  match o with
  | .next s => some s
  | .fault _ => none
  | .refused _ => none

/-- The outcome is a ConfigurationError. -/
def isConfigurationError (o : Host.Outcome State Fault Refusal) : Bool :=
  match o with
  | .next _ => false
  | .fault .configurationError => true
  | .refused _ => false

/-! ### Well-formedness: each check refuses an ill-formed term -/

theorem test_wellFormed_refuses_long_length : (Instr.mapwindow 0x1000 (2 ^ 33) 0).wellFormed = false := by decide

theorem test_wellFormed_refuses_large_region : (Instr.mapwindow 0x1000 16 (2 ^ 32)).wellFormed = false := by decide

theorem test_wellFormed_refuses_large_handle : (Instr.connect .audio ⟨2 ^ 32⟩).wellFormed = false := by decide

theorem test_wellFormed_accepts_whole_space : (Instr.mapwindow 0 (2 ^ 32) 0).wellFormed = true := by decide

/-! ### Decoding: requests written out by hand, op codes of 30_encoding.md R82 -/

theorem test_decode_read32 :
    decode [0x00, 0x11, 0x7F, 0xFF, 0xFD, 0xFF, 0xFF, 0xFF, 0xFF] = .ok (.read32 0x117FFFFD) := by decide

theorem test_decode_write32 :
    decode [0x01, 0xF0, 0x00, 0x00, 0x08, 0x00, 0x00, 0x01, 0xB8] = .ok (.write32 0xF0000008 0x000001B8) := by decide

theorem test_decode_connect : decode [0x02, 0x01, 0x00, 0x00, 0x01, 0x02] = .ok (.connect .audio ⟨0x102⟩) := by decide

theorem test_decode_connect_unknown_kind : decode [0x02, 0x03, 0x00, 0x00, 0x00, 0x01] = .error .unknownKind := by
  decide

theorem test_decode_mapwindow :
    decode [0x03, 0x10, 0x00, 0x00, 0x00, 0x00, 0x01, 0x80, 0x00, 0x00, 0x00, 0x00, 0x00, 0x00] =
      .ok (.mapwindow 0x10000000 0x01800000 0) := by decide

theorem test_decode_defreg :
    decode [0x04, 0x00, 0x00, 0x60, 0x08, 0x00, 0x00, 0x01, 0xB8, 0x02, 0x00] =
      .ok (.defreg 0x6008 0x000001B8 .fwdAudio .none) := by decide

theorem test_decode_reserved : decode [0x05] = .error (.reservedOp 5) ∧ decode [0x06] = .error (.reservedOp 6) ∧
    decode [0x07] = .error (.reservedOp 7) := by decide

theorem test_decode_truncated : decode [0x00, 0x11] = .error .truncated := by decide

/-! ### The rows of the operation table, as bits -/

theorem test_table_words : decodeTableWord 8 0 = some (.read32 0) ∧ decodeTableWord 8 1 = some (.write32 0 0) ∧
    decodeTableWord 8 2 = some (.connect .display ⟨0⟩) ∧ decodeTableWord 8 3 = some (.mapwindow 0 0 0) ∧
    decodeTableWord 8 4 = some (.defreg 0 0 .none .none) ∧ decodeTableWord 8 5 = none := by decide

theorem test_read32_runs_first : ∃ t, step (State.reset.withFetchWord 8 0) = .next t := ⟨_, rfl⟩

theorem test_write32_runs_first : ∃ t, step (State.reset.withFetchWord 8 1) = .next t := ⟨_, rfl⟩

theorem test_connect_runs_first : ∃ t, step (State.reset.withFetchWord 8 2) = .next t := ⟨_, rfl⟩

/-- The operands are zeros, and an empty window is a ConfigurationError (40_address_space.md R100 (a)). -/
theorem test_mapwindow_runs_first : step (State.reset.withFetchWord 8 3) = .fault .configurationError := rfl

/-- A window of 16 MiB onto region 1 of the instance at address 0 is refused with a ConfigurationError: 24 MiB is no power
of two (95_test_vectors.md K12); one of 24 MiB is accepted (K10). -/
theorem test_mapwindow_runs_with_operands :
    step (State.reset.withFetchWord 112 0x0000000000008001000000000003) = .next { State.reset with
      regions := [⟨0x01800000, []⟩, ⟨0x04000000, []⟩], win := [⟨0, 0x01800000, 0⟩], reg := [],
      phase := .construction } ∧
    step (State.reset.withFetchWord 112 0x0000000000000001000000000003) = .fault .configurationError := ⟨rfl, rfl⟩

theorem test_defreg_runs_first : ∃ t, step (State.reset.withFetchWord 8 4) = .next t := ⟨_, rfl⟩

/-! ### Operations, on TC1 (95_test_vectors.md section 6) -/

/-- 6.1 row 8. -/
theorem test_read32_unaligned :
    (after (exec (.read32 0x1001) tc1Filled)).map (fun t => t.rdata) = some (some 0xADBEEF00) := by decide

/-- 6.3 row 11: out of range although A+3 is inside the window. -/
theorem test_read32_out_of_range :
    (after (exec (.read32 0x201D) tc1Filled)).map (fun t => (t.rdata, t.trace)) =
      some (some 0, [.diag .outOfRange .read 0x201D]) := by decide

/-- 6.1 row 12: the window wraps, offset 0x34 mod 16 = 4. -/
theorem test_write32_through_wrapping_window :
    (after (exec (.write32 0x2034 0x0BADF00D) tc1)).map (fun t => t.regions) =
      some [⟨16, [(4, 0x0B), (5, 0xAD), (6, 0xF0), (7, 0x0D)]⟩, ⟨12, []⟩] := by decide

/-- 6.6 row 16. -/
theorem test_write32_to_input_is_ignored :
    (after (exec (.write32 0x6004 0xFFFFFFFF) tc1Connected)).map (fun t => (t.shadow? 1, t.trace)) =
      some (some 0, [.diag .writeIgnored .write 0x6004]) := by decide

/-- 6.6 row 19: quit, A and up, returned verbatim. -/
theorem test_read32_pulls_input :
    (after (exec (.read32 0x6004) tc1Connected)).map (fun t => (t.rdata, t.trace)) =
      some (some 0x80000011, [.getButtonState ⟨3⟩ 0x80000011]) := by decide

/-- 6.6 row 10. -/
theorem test_connect_replaces :
    (after (exec (.connect .display ⟨9⟩) tc1Connected)).map (fun t => (t.conn, t.trace)) =
      some (⟨some ⟨9⟩, some ⟨2⟩, some ⟨3⟩⟩, []) := by decide

/-- K14 and K13 of section 5: ranges that touch, and ranges that share one address. -/
theorem test_mapwindow_touching_and_overlapping :
    ((after (exec (.mapwindow 0x1010 0x0C 1) building)).map (fun t => t.win)) =
      some [⟨0x1000, 0x10, 0⟩, ⟨0x1010, 0x0C, 1⟩] ∧
    isConfigurationError (exec (.mapwindow 0x100F 0x0C 1) building) = true := by decide

/-- K23 and K24 of section 5. -/
theorem test_defreg_duplicate_and_neighbour :
    isConfigurationError (exec (.defreg 0x6000 2 .none .none) building) = true ∧
    ((after (exec (.defreg 0x6001 2 .none .none) building)).map (fun t => t.shadow? 1)) = some (some 2) := by decide

/-- K19 and K22 of section 5: only the register's own address is tested against the windows. -/
theorem test_endConstruct_partition :
    isConfigurationError (execEndConstruct { building with reg := [⟨⟨0x100C, 0, .none, .none⟩, 0⟩] }) = true ∧
    ((after (execEndConstruct { building with reg := [⟨⟨0x0FFF, 0, .none, .none⟩, 0⟩] })).map (fun t => t.phase)) =
      some .run := by decide

/-! ### The hypotheses of the statements can be met -/

theorem tc1_inv : tc1.Inv where
  regions_ok := by
    intro g hg
    simp only [tc1, State.constructed, tc1Config, List.map_cons, List.map_nil, List.mem_cons, List.not_mem_nil,
      or_false] at hg
    rcases hg with rfl | rfl <;> exact ⟨by decide, by decide, by decide⟩
  windows_ok := by decide
  windows_compatible := by decide
  addresses_distinct := by decide
  rejected_kept := by decide
  partition := by decide

theorem tc0_flamessim : tc0.Flamessim testMap := ⟨rfl, rfl⟩

theorem tc1Config_valid : tc1Config.Valid where
  windows_fit := by
    intro w hw
    simp only [tc1Config, List.mem_cons, List.not_mem_nil, or_false] at hw
    rcases hw with rfl | rfl | rfl | rfl | rfl
    · exact ⟨16, rfl, by decide, by decide, Or.inl rfl⟩
    · exact ⟨16, rfl, by decide, by decide, Or.inr ⟨⟨4, rfl⟩, ⟨6, rfl⟩⟩⟩
    · exact ⟨16, rfl, by decide, by decide, Or.inr ⟨⟨4, rfl⟩, ⟨3, rfl⟩⟩⟩
    · exact ⟨12, rfl, by decide, by decide, Or.inl rfl⟩
    · exact ⟨12, rfl, by decide, by decide, Or.inl rfl⟩
  windows_apart := by
    intro w hw v hv hne A
    simp only [tc1Config, List.mem_cons, List.not_mem_nil, or_false] at hw hv
    rcases hw with rfl | rfl | rfl | rfl | rfl <;> rcases hv with rfl | rfl | rfl | rfl | rfl <;>
      first
        | exact absurd rfl hne
        | (simp only [BitVec.toNat_ofNat, BitVec.ofNat_eq_ofNat]; omega)
  registers_distinct := by decide
  registers_outside := by decide

/-- Every run-phase hypothesis of a script: it is issued and leaves a next state. -/
theorem tc1_issue : ∃ t, tc1.phase = .run ∧
    issue [.connect .display ⟨1⟩, .write32 0x1000 0xDEADBEEF, .write32 0x6000 7, .read32 0x6004] tc1 = .next t :=
  ⟨_, rfl, rfl⟩

theorem tc0_issue : ∃ t, issue [.connect .display ⟨1⟩, .write32 0xF0000000 7, .write32 0xF0000004 7] tc0 = .next t :=
  ⟨_, rfl⟩

theorem witness_FirstMatchingWindowIsFound :
    tc1.findWindow 0x0FFF = none ∧ tc1.findWindow 0x100F = some ⟨0x1000, 0x10, 0⟩ ∧ tc1.Inv :=
  ⟨by decide, by decide, tc1_inv⟩

/-- The last address of a window that wraps, an address a size below it, and the last of a window as long as its
region. -/
theorem witness_OffsetIsRemainder :
    (tc1.offset ⟨0x2000, 0x40, 0⟩ 0x202F = 15 ∧ tc1.offset ⟨0x2000, 0x40, 0⟩ 0x203F = 15 ∧
      tc1.regionSize 0 = 2 ^ 4) ∧ tc1.offset ⟨0x4000, 0x0C, 1⟩ 0x400B = 11 ∧ tc1.regionSize 1 = 12 := by decide

theorem witness_RangeCheckIsExact :
    4 ≤ tc1.regionSize 0 ∧ building.regionSize 2 < 4 ∧
    (tc1.findWindow 0x100D = some ⟨0x1000, 0x10, 0⟩ ∧ tc1.regionSize 0 < tc1.offset ⟨0x1000, 0x10, 0⟩ 0x100D + 4) ∧
    tc0.Flamessim testMap := ⟨by decide, by decide, by decide, tc0_flamessim⟩

theorem witness_OverlapIsASharedAddress :
    (⟨0x1000, 0x10, 0⟩ : Window).overlaps 0x100F 0x0C = true ∧
    (⟨0x1000, 0x10, 0⟩ : Window).overlaps 0x1010 0x0C = false ∧
    (⟨0x1000, 0x10, 0⟩ : Window).overlaps 0x0FF4 0x0C = false := by decide

theorem witness_RegisterMatchIsExact :
    tc1.Inv ∧ tc1.findReg 0x6004 = some 1 ∧ tc1.findReg 0x6005 = none := ⟨tc1_inv, by decide, by decide⟩

theorem witness_DecodeOrderIsNotObservable : tc1.Inv ∧ tc1.phase = .run := ⟨tc1_inv, rfl⟩

/-- 95_test_vectors.md 4.2: one address of each class, at the edges of the windows. -/
theorem witness_FlamessimDecodeMap :
    testMap.Admissible ∧ tc0.Flamessim testMap ∧
    tc0.decodeAddress 0x117FFFFC = .ram 0 0x017FFFFC ∧
    tc0.decodeAddress 0x317FFFFD = .ramOutOfRange ⟨0x30000000, S1, 0⟩ ∧
    tc0.decodeAddress 0x43FFFFFC = .ram 1 0x03FFFFFC ∧
    tc0.decodeAddress 0x63FFFFFF = .ramOutOfRange ⟨0x60000000, S2, 1⟩ ∧
    tc0.decodeAddress 0xF0000008 = .reg 2 ∧ tc0.decodeAddress 0x11800000 = .unmapped :=
  ⟨testMap_admissible, tc0_flamessim, by decide, by decide, by decide, by decide, by decide, by decide⟩

theorem witness_ReadOfRamAnswersTheWord : tc1.phase = .run ∧ tc1.decodeAddress 0x100C = .ram 0 12 := by decide

theorem witness_ReadOfBadAddressAnswersZero :
    tc1.phase = .run ∧ tc1.decodeAddress 0x100D = .ramOutOfRange ⟨0x1000, 0x10, 0⟩ ∧
    tc1.decodeAddress 0x1010 = .unmapped := by decide

theorem witness_ReadOfRegisterAnswersItsShadow :
    tc1.phase = .run ∧ tc1.decodeAddress 0x6008 = .reg 2 ∧
    tc1.reg[2]? = some ⟨⟨0x6008, 0x1B8, .fwdAudio, .none⟩, 0x1B8⟩ := by decide

theorem witness_ReadOfInputPullsTheAnswer :
    (tc1Connected.phase = .run ∧ tc1Connected.decodeAddress 0x6004 = .reg 1 ∧
      tc1Connected.reg[1]? = some ⟨⟨0x6004, 0, .rejectLog, .pullInput⟩, 0⟩ ∧
      tc1Connected.conn.input = some ⟨3⟩) ∧
    tc1.phase = .run ∧ tc1.decodeAddress 0x6004 = .reg 1 ∧
      tc1.reg[1]? = some ⟨⟨0x6004, 0, .rejectLog, .pullInput⟩, 0⟩ ∧ tc1.conn.input = none := by decide

theorem witness_ReadChangesNoState : ∃ t, exec (.read32 0x6004) tc1Connected = .next t := ⟨_, rfl⟩

theorem witness_WriteToRamStoresFourBytes : tc1.phase = .run ∧ tc1.decodeAddress 0x3007 = .ram 0 7 := by decide

theorem witness_WriteToBadAddressIsDropped :
    tc1.phase = .run ∧ tc1.decodeAddress 0x400B = .ramOutOfRange ⟨0x4000, 0x0C, 1⟩ ∧
    tc1.decodeAddress 0x6003 = .unmapped := by decide

theorem witness_WriteToPlainRegisterStores :
    tc1.phase = .run ∧ tc1.decodeAddress 0x600C = .reg 3 ∧
    tc1.reg[3]? = some ⟨⟨0x600C, 0x12345678, .none, .none⟩, 0x12345678⟩ := by decide

theorem witness_ColourWriteCallsTheDisplay :
    (tc1Connected.phase = .run ∧ tc1Connected.decodeAddress 0x6000 = .reg 0 ∧
      tc1Connected.reg[0]? = some ⟨⟨0x6000, 0xFF, .fwdDisplay, .none⟩, 0xFF⟩ ∧
      tc1Connected.conn.display = some ⟨1⟩) ∧
    tc1.phase = .run ∧ tc1.decodeAddress 0x6000 = .reg 0 ∧
      tc1.reg[0]? = some ⟨⟨0x6000, 0xFF, .fwdDisplay, .none⟩, 0xFF⟩ ∧ tc1.conn.display = none := by decide

theorem witness_ToneWriteCallsTheAudio :
    (tc1Connected.phase = .run ∧ tc1Connected.decodeAddress 0x6008 = .reg 2 ∧
      tc1Connected.reg[2]? = some ⟨⟨0x6008, 0x1B8, .fwdAudio, .none⟩, 0x1B8⟩ ∧
      tc1Connected.conn.audio = some ⟨2⟩) ∧
    tc1.phase = .run ∧ tc1.decodeAddress 0x6008 = .reg 2 ∧
      tc1.reg[2]? = some ⟨⟨0x6008, 0x1B8, .fwdAudio, .none⟩, 0x1B8⟩ ∧ tc1.conn.audio = none := by decide

theorem witness_IgnoredWriteIsLogged :
    tc1.phase = .run ∧ tc1.decodeAddress 0x6004 = .reg 1 ∧
    tc1.reg[1]? = some ⟨⟨0x6004, 0, .rejectLog, .pullInput⟩, 0⟩ := by decide

/-- Two windows onto one region, and a window onto another. -/
theorem witness_WindowsOntoOneRegionShareItsBytes :
    tc1.phase = .run ∧ tc1.findWindow 0x100C = some ⟨0x1000, 0x10, 0⟩ ∧
    tc1.findWindow 0x203C = some ⟨0x2000, 0x40, 0⟩ ∧
    tc1.inRange 0 (tc1.offset ⟨0x1000, 0x10, 0⟩ 0x100C) = true ∧
    tc1.offset ⟨0x1000, 0x10, 0⟩ 0x100C = tc1.offset ⟨0x2000, 0x40, 0⟩ 0x203C ∧
    tc1.findWindow 0x4000 = some ⟨0x4000, 0x0C, 1⟩ := by decide

/-- At the last pair of offsets that are both in range. -/
theorem witness_OverlappingWritesCombine :
    tc1.phase = .run ∧ (0x100C : Word).toNat = (0x100A : Word).toNat + 2 ∧
    tc1.findWindow 0x100A = some ⟨0x1000, 0x10, 0⟩ ∧ tc1.findWindow 0x100C = some ⟨0x1000, 0x10, 0⟩ ∧
    tc1.inRange 0 (tc1.offset ⟨0x1000, 0x10, 0⟩ 0x100A) = true ∧
    tc1.inRange 0 (tc1.offset ⟨0x1000, 0x10, 0⟩ 0x100C) = true := by decide

theorem witness_RepeatedWriteRepeatsOnlyItsEvents : tc1.Inv ∧ tc1.phase = .run := ⟨tc1_inv, rfl⟩

theorem witness_ConnectReplacesOneConnection : tc1Connected.phase = .run := rfl

theorem witness_LastConnectWins : tc1Connected.phase = .run := rfl

/-- A window as long as its region (K14), a window twice as long (K5 at another base), and a window that ends at 2^32
(K2). -/
theorem witness_MapwindowAppendsTheWindow :
    building.phase = .construction ∧
    (building.regions[1]? = some ⟨12, []⟩ ∧ building.windowOk 0x1010 0x0C 1 = true) ∧
    (building.regions[0]? = some ⟨16, []⟩ ∧ building.windowOk 0x2000 0x20 0 = true ∧ (0x20 : Nat) = 2 ^ 5) ∧
    building.windowOk 0xFFFFFFF0 0x10 0 = true := by decide

/-- K18, K1, K3, K4 and K13, one for each cause. -/
theorem witness_MapwindowRaisesConfigurationError :
    building.phase = .construction ∧ building.regions[3]? = none ∧ building.regions[0]? = some ⟨16, []⟩ ∧
    (0xFFFFFFF1 : Word).toNat + 0x10 = 2 ^ 32 + 1 ∧
    isConfigurationError (exec (.mapwindow 0x2000 0x18 0) building) = true ∧
    (building.regions[1]? = some ⟨12, []⟩ ∧ ∃ w ∈ building.win, w.region ≠ 1 ∧
      w.base.toNat < (0x100F : Word).toNat + 0x0C ∧ (0x100F : Word).toNat < w.base.toNat + w.length) := by decide

theorem witness_DefregAppendsTheRegister :
    building.phase = .construction ∧ (∀ x ∈ building.reg, x.desc.addr ≠ 0x6001) ∧
    ∃ x ∈ building.reg, x.desc.addr = 0x6000 := by decide

theorem witness_OutOfPhaseAndReservedAreRefused :
    ((Instr.mapwindow 0 0 0).phase = .construction ∧ tc1.phase = .run) ∧
    ((Instr.read32 0).phase = .run ∧ building.phase = .construction) ∧
    (5 ≤ (0x05 : Byte).toNat % 8 ∧
      ({ tc1 with pending := [.request [0x05]] } : State).pending = [.request (0x05 :: [])]) := by decide

/-- TC1 is valid; the configuration of K19 is not. -/
theorem witness_ConstructBuildsExactlyTheValid :
    ((∀ n ∈ tc1Config.regions, 1 ≤ n ∧ n ≤ 2 ^ 32) ∧ tc1Config.Valid) ∧
    ¬ (⟨[16], [⟨0x1000, 0x10, 0⟩], [⟨0x100C, 0, .none, .none⟩]⟩ : BusConfig).Valid :=
  ⟨⟨by decide, tc1Config_valid⟩, fun h =>
    h.registers_outside ⟨0x100C, 0, .none, .none⟩ (by simp) ⟨0x1000, 0x10, 0⟩ (by simp) (by decide)⟩

theorem witness_FlamessimConstructs : testMap.Admissible := testMap_admissible

theorem witness_StepsConstructTheBus :
    (∀ n ∈ tc1Config.regions, 1 ≤ n ∧ n ≤ 2 ^ 32) ∧ tc1Config.regions.length ≤ 2 ^ 32 ∧ tc1Config.Valid :=
  ⟨by decide, by decide, tc1Config_valid⟩

theorem witness_StepKeepsTheInvariant : ∃ t, tc1.Inv ∧ step tc1 = .next t := ⟨_, tc1_inv, rfl⟩

theorem witness_RunKeepsTheConfiguration : ∃ t, tc1.phase = .run ∧ issue [.write32 0x1000 1] tc1 = .next t :=
  ⟨_, rfl, rfl⟩

theorem witness_InputShadowNeverChanges :
    ∃ t, testMap.Admissible ∧ issue [.write32 0xF0000004 7] (State.constructed (flamessim testMap)) = .next t :=
  ⟨_, testMap_admissible, rfl⟩

theorem witness_RunOperationsAlwaysComplete :
    tc1.phase = .run ∧ ∀ i ∈ [Instr.read32 0, .write32 0 1, .connect .input ⟨3⟩], i.phase = .run := by decide

theorem witness_RamHoldsTheLatestWrite : ∃ t, tc1.phase = .run ∧
    issue [.connect .display ⟨1⟩, .write32 0x1000 0xDEADBEEF, .write32 0x6000 7, .read32 0x6004] tc1 = .next t :=
  tc1_issue

theorem witness_ShadowHoldsTheLatestWrite : ∃ t, tc1.phase = .run ∧
    tc1.reg[0]? = some ⟨⟨0x6000, 0xFF, .fwdDisplay, .none⟩, 0xFF⟩ ∧ issue [.write32 0x6000 7] tc1 = .next t :=
  ⟨_, rfl, rfl, rfl⟩

theorem witness_DisplayCallsAreTheColourWrites : ∃ t, testMap.Admissible ∧ tc0.Flamessim testMap ∧
    issue [.connect .display ⟨1⟩, .write32 0xF0000000 7, .write32 0xF0000004 7] tc0 = .next t :=
  let ⟨t, h⟩ := tc0_issue
  ⟨t, testMap_admissible, tc0_flamessim, h⟩

/-- At the last in-range offset of each region, in both directions. -/
theorem witness_FlamessimWindowsMirrorEachOther :
    testMap.Admissible ∧ tc0.Flamessim testMap ∧
    ((0x117FFFFC : Word).toNat = testMap.w1aBase.toNat + 0x017FFFFC ∧
      (0x317FFFFC : Word).toNat = testMap.w1bBase.toNat + 0x017FFFFC) ∧
    (0x43FFFFFC : Word).toNat = testMap.w2aBase.toNat + 0x03FFFFFC ∧
      (0x63FFFFFC : Word).toNat = testMap.w2bBase.toNat + 0x03FFFFFC :=
  ⟨testMap_admissible, tc0_flamessim, by decide, by decide, by decide⟩

theorem witness_AtMostOneEventOfEachSort : ∃ t, exec (.write32 0x6000 1) tc1Connected = .next t := ⟨_, rfl⟩

theorem witness_PulledOnlyByInputReads :
    (∃ t, exec (.read32 0x6004) tc1Connected = .next t) ∧ ∃ t, exec (.read32 0x6004) tc1 = .next t :=
  ⟨⟨_, rfl⟩, ⟨_, rfl⟩⟩

theorem witness_StorageIgnoresConnectionsAndOutputs :
    ∃ t, tc1Connected.regions = tc1.regions ∧ tc1Connected.win = tc1.win ∧ tc1Connected.reg = tc1.reg ∧
      tc1Connected.phase = tc1.phase ∧ exec (.write32 0x6000 1) tc1 = .next t := ⟨_, rfl, rfl, rfl, rfl, rfl⟩

theorem witness_EmptyBusAnswersZero :
    (State.constructed ⟨[], [], []⟩).phase = .run ∧ (State.constructed ⟨[], [], []⟩).win = [] ∧
    (State.constructed ⟨[], [], []⟩).reg = [] := by decide

theorem witness_CanonicalMemoryIsDeterminedByItsBytes :
    Memory.wf [(0, 0xDE), (3, 0xEF)] ∧ Memory.wf [] := by decide

theorem witness_DecodeOfEncodeIsTheOperation :
    (Instr.read32 0xFFFFFFFF).wellFormed = true ∧ (Instr.write32 0 0xFFFFFFFF).wellFormed = true ∧
    (Instr.connect .input ⟨2 ^ 32 - 1⟩).wellFormed = true ∧
    (Instr.mapwindow 0xFFFFFFFF (2 ^ 33 - 1) (2 ^ 32 - 1)).wellFormed = true ∧
    (Instr.defreg 0 0 .rejectLog .pullInput).wellFormed = true := by decide

theorem witness_StepPerformsTheNextInput :
    ({ tc1 with pending := [.request [0x00, 0, 0, 0, 0, 0, 0, 0, 0]] } : State).pending =
      [.request [0x00, 0, 0, 0, 0, 0, 0, 0, 0]] ∧
    decode [0x00, 0, 0, 0, 0, 0, 0, 0, 0] = .ok (.read32 0) ∧
    ({ tc1 with pending := [.beginConstruct [16], .endConstruct] } : State).pending =
      [.beginConstruct [16], .endConstruct] ∧
    ({ tc1 with pending := [.endConstruct] } : State).pending = [.endConstruct] ∧ tc1.pending = [] := by decide

end Sys2Proof.Tests
end

section
/-! SUPPORT. What a bus transaction does to the block and to the trace: a read changes nothing, a write stores one word
in RAM or in one shadow or changes nothing, and either sends out at most one event. -/

namespace Sys2Proof.Machine

/-! ### What keeps the block -/

theorem State.SameBlock.refl (s : State) : s.SameBlock s := ⟨rfl, rfl, rfl, rfl, rfl⟩

theorem State.SameBlock.trans {s t u : State} (h : s.SameBlock t) (h' : t.SameBlock u) : s.SameBlock u :=
  ⟨h'.regions.trans h.regions, h'.win.trans h.win, h'.reg.trans h.reg, h'.conn.trans h.conn, h'.phase.trans h.phase⟩

theorem State.SameBlock.emit (s : State) (e : Event) : s.SameBlock (s.emit e) := ⟨rfl, rfl, rfl, rfl, rfl⟩

theorem State.SameBlock.respond (s : State) (v : Option Word) : s.SameBlock (s.respond v) := ⟨rfl, rfl, rfl, rfl, rfl⟩

theorem State.SameBlock.recover (s : State) (kind : DiagKind) (op : Access) (A : Word) :
    s.SameBlock (s.recover kind op A) := .emit s _

theorem State.SameBlock.rejectLog (s : State) (A : Word) : s.SameBlock (s.rejectLog A) := .emit s _

theorem State.SameBlock.withPending (s : State) (rest : List PortInput) : s.SameBlock (s.withPending rest) :=
  ⟨rfl, rfl, rfl, rfl, rfl⟩

theorem State.SameBlock.fwdDisplay (s : State) (V : Word) : s.SameBlock (s.fwdDisplay V) := by
  unfold State.fwdDisplay
  split
  · exact .emit s _
  · exact .refl s

theorem State.SameBlock.fwdAudio (s : State) (V : Word) : s.SameBlock (s.fwdAudio V) := by
  unfold State.fwdAudio
  split
  · exact .emit s _
  · exact .refl s

theorem State.SameBlock.pullInput (s : State) (shadow : Word) : s.SameBlock (s.pullInput shadow).2 := by
  unfold State.pullInput
  split
  · exact ⟨rfl, rfl, rfl, rfl, rfl⟩
  · exact .refl s

theorem State.SameBlock.readRegister (s : State) (x : IoRegister) : s.SameBlock (s.readRegister x).2 := by
  unfold State.readRegister
  split
  · exact .refl s
  · exact .pullInput s _

/-- A bus read changes nothing of the block, whatever the address (42_bus.md R120). -/
theorem State.SameBlock.busRead32 (s : State) (A : Word) : s.SameBlock (s.busRead32 A).2 := by
  cases h : s.decodeAddress A with
  | ram r off => simpa only [State.busRead32_ram h] using .refl s
  | ramOutOfRange w => simpa only [State.busRead32_ramOutOfRange h] using .recover s _ _ A
  | reg i =>
    obtain ⟨x, -, -, hread⟩ := State.busRead32_reg h
    simpa only [hread] using .readRegister s x
  | unmapped => simpa only [State.busRead32_unmapped h] using .recover s _ _ A

/-- A register write stores the shadow, unless the register rejects writes; its handler changes nothing of the block. -/
theorem State.writeRegister_effect (s : State) (i : Nat) (x : IoRegister) (V : Word) :
    (x.desc.onWrite ≠ .rejectLog ∧ (s.setShadow i V).SameBlock (s.writeRegister i x V)) ∨
    (x.desc.onWrite = .rejectLog ∧ s.SameBlock (s.writeRegister i x V)) := by
  unfold State.writeRegister
  cases x.desc.onWrite with
  | none => exact Or.inl ⟨nofun, .refl _⟩
  | fwdDisplay => exact Or.inl ⟨nofun, .fwdDisplay _ V⟩
  | fwdAudio => exact Or.inl ⟨nofun, .fwdAudio _ V⟩
  | rejectLog => exact Or.inr ⟨rfl, .rejectLog s _⟩

/-- What a bus write can do to the block: store a word inside one region, store the shadow of one register that does not
reject writes, or nothing (42_bus.md R121). -/
theorem State.busWrite32_effect (s : State) (A V : Word) :
    (∃ r off, off + 4 ≤ s.regionSize r ∧ s.busWrite32 A V = s.writeRam r off V) ∨
    (∃ i x, s.reg[i]? = some x ∧ x.desc.onWrite ≠ .rejectLog ∧ (s.setShadow i V).SameBlock (s.busWrite32 A V)) ∨
    s.SameBlock (s.busWrite32 A V) := by
  cases h : s.decodeAddress A with
  | ram r off =>
    obtain ⟨-, -, -, -, hin⟩ := State.decodeAddress_ram h
    exact Or.inl ⟨r, off, hin, State.busWrite32_ram h⟩
  | ramOutOfRange w => exact Or.inr (Or.inr (State.busWrite32_ramOutOfRange h ▸ .recover s _ _ A))
  | reg i =>
    obtain ⟨x, hx, -, hwrite⟩ := State.busWrite32_reg (V := V) h
    rw [hwrite]
    rcases s.writeRegister_effect i x V with ⟨hstores, hsame⟩ | ⟨-, hsame⟩
    · exact Or.inr (Or.inl ⟨i, x, hx, hstores, hsame⟩)
    · exact Or.inr (Or.inr hsame)
  | unmapped => exact Or.inr (Or.inr (State.busWrite32_unmapped h ▸ .recover s _ _ A))

/-! ### What keeps the configuration -/

theorem State.configuration_eq_iff {s t : State} : t.configuration = s.configuration ↔
    t.regions.map Region.size = s.regions.map Region.size ∧ t.win = s.win ∧
      t.reg.map IoRegister.desc = s.reg.map IoRegister.desc := by
  simp only [State.configuration, BusConfig.mk.injEq]

theorem State.SameBlock.configuration {s t : State} (h : s.SameBlock t) : t.configuration = s.configuration := by
  simp only [State.configuration, h.regions, h.win, h.reg]

theorem State.configuration_writeRam (s : State) (r off : Nat) (v : Word) :
    (s.writeRam r off v).configuration = s.configuration := by
  simp only [State.configuration, State.writeRam_sizes, State.writeRam_win, State.writeRam_reg]

theorem State.configuration_setShadow (s : State) (i : Nat) (v : Word) :
    (s.setShadow i v).configuration = s.configuration := by
  have hdesc : (s.setShadow i v).reg.map IoRegister.desc = s.reg.map IoRegister.desc := by
    refine List.ext_getElem? fun j => ?_
    simp only [State.setShadow_reg, List.getElem?_map, List.getElem?_modify]
    cases s.reg[j]? with
    | none => rfl
    | some x => simp only [Option.map_some]; split <;> rfl
  simp only [State.configuration, hdesc, State.setShadow_regions, State.setShadow_win]

theorem State.busWrite32_configuration (s : State) (A V : Word) :
    (s.busWrite32 A V).configuration = s.configuration ∧ (s.busWrite32 A V).phase = s.phase := by
  rcases s.busWrite32_effect A V with ⟨r, off, -, hw⟩ | ⟨i, x, -, -, hsame⟩ | hsame
  · exact hw ▸ ⟨s.configuration_writeRam r off V, rfl⟩
  · exact ⟨hsame.configuration.trans (s.configuration_setShadow i V), hsame.phase⟩
  · exact ⟨hsame.configuration, hsame.phase⟩

/-- No operation that completes on a running bus changes the configuration or ends the run phase. -/
theorem exec_keeps_configuration {i : Instr} {s t : State} (hrun : s.phase = .run) (h : exec i s = .next t) :
    t.configuration = s.configuration ∧ t.phase = .run := by
  cases i with
  | read32 A =>
    obtain ⟨-, rfl⟩ := execRead32_next h
    have hsame := (State.SameBlock.busRead32 s A).trans (.respond _ (some (s.busRead32 A).1))
    exact ⟨hsame.configuration, hsame.phase.trans hrun⟩
  | write32 A V =>
    obtain ⟨-, rfl⟩ := execWrite32_next h
    obtain ⟨hconf, hphase⟩ := s.busWrite32_configuration A V
    exact ⟨hconf, hphase.trans hrun⟩
  | connect k c =>
    obtain ⟨-, rfl⟩ := execConnect_next h
    exact ⟨rfl, hrun⟩
  | mapwindow base length region =>
    obtain ⟨hcon, -⟩ := execMapwindow_next h
    simp [hrun] at hcon
  | defreg addr init onWrite onRead =>
    obtain ⟨hcon, -⟩ := execDefreg_next h
    simp [hrun] at hcon

/-! ### What one operation sends out -/

/-- The trace of `t` is that of `s` with at most one event after it. -/
def State.EmitsAtMostOne (s t : State) : Prop := ∃ e : Option Event, t.trace = s.trace ++ e.toList

theorem State.EmitsAtMostOne.of_trace_eq {s t : State} (h : t.trace = s.trace) : s.EmitsAtMostOne t :=
  ⟨none, by simp [h]⟩

theorem State.EmitsAtMostOne.emit (s : State) (e : Event) : s.EmitsAtMostOne (s.emit e) := ⟨some e, rfl⟩

theorem State.EmitsAtMostOne.fwdDisplay (s : State) (V : Word) : s.EmitsAtMostOne (s.fwdDisplay V) := by
  unfold State.fwdDisplay
  split
  · exact .emit s _
  · exact .of_trace_eq rfl

theorem State.EmitsAtMostOne.fwdAudio (s : State) (V : Word) : s.EmitsAtMostOne (s.fwdAudio V) := by
  unfold State.fwdAudio
  split
  · exact .emit s _
  · exact .of_trace_eq rfl

theorem State.EmitsAtMostOne.readRegister (s : State) (x : IoRegister) : s.EmitsAtMostOne (s.readRegister x).2 := by
  unfold State.readRegister State.pullInput
  split
  · exact .of_trace_eq rfl
  · split
    · exact ⟨some _, rfl⟩
    · exact .of_trace_eq rfl

theorem State.EmitsAtMostOne.writeRegister (s : State) (i : Nat) (x : IoRegister) (V : Word) :
    s.EmitsAtMostOne (s.writeRegister i x V) := by
  unfold State.writeRegister
  cases x.desc.onWrite with
  | none => exact .of_trace_eq rfl
  | fwdDisplay => exact .fwdDisplay (s.setShadow i V) V
  | fwdAudio => exact .fwdAudio (s.setShadow i V) V
  | rejectLog => exact .emit s _

theorem State.EmitsAtMostOne.busRead32 (s : State) (A : Word) : s.EmitsAtMostOne (s.busRead32 A).2 := by
  cases h : s.decodeAddress A with
  | ram r off => simpa only [State.busRead32_ram h] using .of_trace_eq rfl
  | ramOutOfRange w => simpa only [State.busRead32_ramOutOfRange h] using .emit s _
  | reg i =>
    obtain ⟨x, -, -, hread⟩ := State.busRead32_reg h
    simpa only [hread] using .readRegister s x
  | unmapped => simpa only [State.busRead32_unmapped h] using .emit s _

theorem State.EmitsAtMostOne.busWrite32 (s : State) (A V : Word) : s.EmitsAtMostOne (s.busWrite32 A V) := by
  cases h : s.decodeAddress A with
  | ram r off => exact State.busWrite32_ram h ▸ .of_trace_eq rfl
  | ramOutOfRange w => exact State.busWrite32_ramOutOfRange h ▸ .emit s _
  | reg i =>
    obtain ⟨x, -, -, hwrite⟩ := State.busWrite32_reg (V := V) h
    exact hwrite ▸ .writeRegister s i x V
  | unmapped => exact State.busWrite32_unmapped h ▸ .emit s _

/-- An operation that completes sends out at most one event of any sort. -/
theorem exec_emitsAtMostOne {i : Instr} {s t : State} (h : exec i s = .next t) : s.EmitsAtMostOne t := by
  cases i with
  | read32 A =>
    obtain ⟨-, rfl⟩ := execRead32_next h
    exact .busRead32 s A
  | write32 A V =>
    obtain ⟨-, rfl⟩ := execWrite32_next h
    exact .busWrite32 s A V
  | connect k c =>
    obtain ⟨-, rfl⟩ := execConnect_next h
    exact .of_trace_eq rfl
  | mapwindow base length region =>
    obtain ⟨-, -, rfl⟩ := execMapwindow_next h
    exact .of_trace_eq rfl
  | defreg addr init onWrite onRead =>
    obtain ⟨-, -, rfl⟩ := execDefreg_next h
    exact .of_trace_eq rfl

end Sys2Proof.Machine
end

section
/-! SUPPORT. Each operation keeps the invariant `State.Inv`. A change that keeps the configuration and the phase keeps
every part of it that speaks of the tables; only the RAM bytes and the shadows are left to show. -/

namespace Sys2Proof.Machine

/-- What holds of every element, and of the changed one, holds after one element is changed. -/
theorem forall_mem_modify {α : Type} {P : α → Prop} {l : List α} {i : Nat} {f : α → α} (hl : ∀ x ∈ l, P x)
    (hf : ∀ x, l[i]? = some x → P (f x)) : ∀ y ∈ l.modify i f, P y := by
  intro y hy
  obtain ⟨j, hj⟩ := List.mem_iff_getElem?.1 hy
  rw [List.getElem?_modify, Option.map_eq_map, Option.map_eq_some_iff] at hj
  obtain ⟨x, hx, rfl⟩ := hj
  split
  · next hij => exact hf x (hij ▸ hx)
  · exact hl x (List.mem_of_getElem? hx)

/-! ### The parts that read only the configuration -/

theorem State.WindowOk_congr {s t : State} (h : t.configuration = s.configuration) (w : Window) :
    t.WindowOk w ↔ s.WindowOk w := by
  obtain ⟨hsizes, -, -⟩ := State.configuration_eq_iff.1 h
  have hlen : t.regions.length = s.regions.length := by simpa using congrArg List.length hsizes
  rw [State.WindowOk, State.WindowOk, hlen, State.regionSize_congr hsizes]

theorem State.partitionOk_congr {s t : State} (h : t.configuration = s.configuration) :
    t.partitionOk = s.partitionOk := by
  obtain ⟨-, hwin, hreg⟩ := State.configuration_eq_iff.1 h
  have hall (u : State) : u.partitionOk =
      (u.reg.map IoRegister.desc).all fun d => u.win.all fun w => !w.covers d.addr := by
    rw [State.partitionOk, List.all_map]
    rfl
  rw [hall, hall, hwin, hreg]

theorem State.addresses_distinct_congr {s t : State} (h : t.configuration = s.configuration) :
    t.reg.Pairwise (fun x y => x.desc.addr ≠ y.desc.addr) ↔ s.reg.Pairwise (fun x y => x.desc.addr ≠ y.desc.addr) := by
  obtain ⟨-, -, hreg⟩ := State.configuration_eq_iff.1 h
  have hmap (u : State) : (u.reg.map IoRegister.desc).Pairwise (fun d e => d.addr ≠ e.addr) ↔
      u.reg.Pairwise fun x y => x.desc.addr ≠ y.desc.addr := List.pairwise_map
  rw [← hmap, ← hmap, hreg]

/-- Where the configuration and the phase stay, only the bytes of RAM and the rejecting registers can break the
invariant. -/
theorem State.Inv.of_configuration {s t : State} (hs : s.Inv) (hconf : t.configuration = s.configuration)
    (hphase : t.phase = s.phase) (hregions : ∀ g ∈ t.regions, g.Ok) (hkept : ∀ x ∈ t.reg, x.Kept) : t.Inv := by
  obtain ⟨-, hwin, -⟩ := State.configuration_eq_iff.1 hconf
  exact {
    regions_ok := hregions
    windows_ok := fun w hw => (State.WindowOk_congr hconf w).2 (hs.windows_ok w (hwin ▸ hw))
    windows_compatible := hwin ▸ hs.windows_compatible
    addresses_distinct := (State.addresses_distinct_congr hconf).2 hs.addresses_distinct
    rejected_kept := hkept
    partition := fun hrun => (State.partitionOk_congr hconf).trans (hs.partition (hphase ▸ hrun)) }

theorem State.Inv.of_sameBlock {s t : State} (hs : s.Inv) (h : s.SameBlock t) : t.Inv :=
  hs.of_configuration h.configuration h.phase (h.regions ▸ hs.regions_ok) (h.reg ▸ hs.rejected_kept)

/-! ### The stores -/

/-- A word stored inside a region leaves the region well formed. -/
theorem Region.Ok.writeWord {g : Region} (hg : g.Ok) {off : Nat} (v : Word) (hin : off + 4 ≤ g.size) :
    (g.writeWord off v).Ok where
  size_ok := hg.size_ok
  canonical := Memory.writeWord_wf off v hg.canonical
  inside c hc := by
    rcases Memory.mem_writeWord hc with ⟨-, hlt⟩ | hold
    · exact Nat.lt_of_lt_of_le hlt hin
    · exact hg.inside c hold

theorem State.Inv.writeRam {s : State} (hs : s.Inv) {r off : Nat} (v : Word) (hin : off + 4 ≤ s.regionSize r) :
    (s.writeRam r off v).Inv := by
  refine hs.of_configuration (s.configuration_writeRam r off v) rfl ?_ hs.rejected_kept
  refine forall_mem_modify hs.regions_ok fun g hg => ?_
  have hsize : s.regionSize r = g.size := by simp only [State.regionSize, hg]
  exact (hs.regions_ok g (List.mem_of_getElem? hg)).writeWord v (hsize ▸ hin)

theorem State.Inv.setShadow {s : State} (hs : s.Inv) {i : Nat} {x : IoRegister} (v : Word)
    (hx : s.reg[i]? = some x) (hstores : x.desc.onWrite ≠ .rejectLog) : (s.setShadow i v).Inv := by
  refine hs.of_configuration (s.configuration_setShadow i v) rfl hs.regions_ok ?_
  refine forall_mem_modify hs.rejected_kept fun y hy hreject => ?_
  obtain rfl : x = y := Option.some.inj (hx.symm.trans hy)
  exact absurd hreject hstores

theorem State.Inv.busWrite32 {s : State} (hs : s.Inv) (A V : Word) : (s.busWrite32 A V).Inv := by
  rcases s.busWrite32_effect A V with ⟨r, off, hin, hw⟩ | ⟨i, x, hx, hstores, hsame⟩ | hsame
  · exact hw ▸ hs.writeRam V hin
  · exact (hs.setShadow V hx hstores).of_sameBlock hsame
  · exact hs.of_sameBlock hsame

/-! ### Construction -/

/-- MAPWINDOW's checks say that the new window may stand in the table: by itself, and beside each earlier one
(40_address_space.md R100). -/
theorem State.windowOk_iff (s : State) (base : Word) (length region : Nat) :
    s.windowOk base length region = true ↔
      s.WindowOk ⟨base, length, region⟩ ∧ ∀ w ∈ s.win, w.Compatible ⟨base, length, region⟩ := by
  simp [State.windowOk, State.windowClear]

theorem State.Inv.addWindow {s : State} (hs : s.Inv) {base : Word} {length region : Nat}
    (hcon : s.phase = .construction) (hok : s.windowOk base length region = true) :
    (s.addWindow base length region).Inv := by
  obtain ⟨hnew, hbeside⟩ := (s.windowOk_iff base length region).1 hok
  exact {
    regions_ok := hs.regions_ok
    windows_ok := List.forall_mem_append.2 ⟨hs.windows_ok, List.forall_mem_singleton.2 hnew⟩
    windows_compatible := List.pairwise_append.2
      ⟨hs.windows_compatible, List.pairwise_singleton _ _, fun w hw => List.forall_mem_singleton.2 (hbeside w hw)⟩
    addresses_distinct := hs.addresses_distinct
    rejected_kept := hs.rejected_kept
    partition := fun hrun => by simp [hcon] at hrun }

theorem State.Inv.addRegister {s : State} (hs : s.Inv) {d : RegDesc} (hcon : s.phase = .construction)
    (hfree : s.findReg d.addr = none) : (s.addRegister d).Inv where
  regions_ok := hs.regions_ok
  windows_ok := hs.windows_ok
  windows_compatible := hs.windows_compatible
  addresses_distinct := List.pairwise_append.2
    ⟨hs.addresses_distinct, List.pairwise_singleton _ _,
      fun x hx => List.forall_mem_singleton.2 (findRegIn_none.1 hfree x hx)⟩
  rejected_kept := List.forall_mem_append.2 ⟨hs.rejected_kept, List.forall_mem_singleton.2 fun _ => rfl⟩
  partition hrun := by simp [hcon] at hrun

/-- CONSTRUCT's beginning meets the invariant whatever bus it replaces (70_reset_and_hazards.md R231). -/
theorem State.freshTables_inv (s : State) {sizes : List Nat} (hsizes : sizes.all sizeOk = true) :
    (s.freshTables sizes).Inv where
  regions_ok := List.forall_mem_map.2 fun n hn =>
    { size_ok := List.all_eq_true.1 hsizes n hn
      canonical := Region.zeroed_wf n
      inside := fun _ hc => absurd hc List.not_mem_nil }
  windows_ok _ hw := absurd hw List.not_mem_nil
  windows_compatible := List.Pairwise.nil
  addresses_distinct := List.Pairwise.nil
  rejected_kept _ hx := absurd hx List.not_mem_nil
  partition hrun := nomatch hrun

theorem State.Inv.enterRun {s : State} (hs : s.Inv) (hpart : s.partitionOk = true) : s.enterRun.Inv where
  regions_ok := hs.regions_ok
  windows_ok := hs.windows_ok
  windows_compatible := hs.windows_compatible
  addresses_distinct := hs.addresses_distinct
  rejected_kept := hs.rejected_kept
  partition _ := hpart

/-! ### Every operation, every input -/

theorem State.Inv.exec {i : Instr} {s t : State} (hs : s.Inv) (h : Machine.exec i s = .next t) : t.Inv := by
  cases i with
  | read32 A =>
    obtain ⟨-, rfl⟩ := execRead32_next h
    exact hs.of_sameBlock ((State.SameBlock.busRead32 s A).trans (.respond _ _))
  | write32 A V =>
    obtain ⟨-, rfl⟩ := execWrite32_next h
    exact (hs.busWrite32 A V).of_sameBlock (.respond _ _)
  | connect k c =>
    obtain ⟨-, rfl⟩ := execConnect_next h
    exact hs.of_configuration rfl rfl hs.regions_ok hs.rejected_kept
  | mapwindow base length region =>
    obtain ⟨hcon, hok, rfl⟩ := execMapwindow_next h
    exact (hs.addWindow hcon hok).of_sameBlock (.respond _ _)
  | defreg addr init onWrite onRead =>
    obtain ⟨hcon, hfree, rfl⟩ := execDefreg_next h
    exact (hs.addRegister hcon hfree).of_sameBlock (.respond _ _)

theorem State.Inv.perform {p : PortInput} {s t : State} (hs : s.Inv) (h : Machine.perform p s = .next t) : t.Inv := by
  rcases perform_next h with ⟨bytes, i, -, -, hexec⟩ | ⟨sizes, -, hbegin⟩ | ⟨-, hend⟩
  · exact hs.exec hexec
  · obtain ⟨hsizes, rfl⟩ := execBeginConstruct_next hbegin
    exact s.freshTables_inv hsizes
  · obtain ⟨-, hpart, rfl⟩ := execEndConstruct_next hend
    exact hs.enterRun hpart

end Sys2Proof.Machine
end

section
/-! The statements of 00_scope.md, settled. -/

namespace Sys2Proof.Machine

/-- Settles O37: a step is idle or performs the next input, and every input keeps the invariant. -/
theorem stepKeepsTheInvariant : Obligations.StepKeepsTheInvariant := by
  intro s t hs hstep
  rcases step_next hstep with ⟨-, rfl⟩ | ⟨p, rest, -, hperform⟩
  · exact hs
  · exact (hs.of_sameBlock (.withPending s rest)).perform hperform

/-- Settles O38, by induction on the script. -/
theorem runKeepsTheConfiguration : Obligations.RunKeepsTheConfiguration := by
  intro ops
  induction ops with
  | nil =>
    intro s t hrun h
    obtain rfl : s = t := by simpa [issue] using h
    exact ⟨rfl, hrun⟩
  | cons i rest ih =>
    intro s t hrun h
    obtain ⟨u, hfirst, hrest⟩ := andThen_next h
    obtain ⟨hconf, hrun'⟩ := exec_keeps_configuration hrun hfirst
    obtain ⟨hconf', hrun''⟩ := ih u t hrun' hrest
    exact ⟨hconf'.trans hconf, hrun''⟩

/-- Settles O45: an operation sends out at most one event in all, so at most one of each sort. -/
theorem atMostOneEventOfEachSort : Obligations.AtMostOneEventOfEachSort := by
  intro i s t h
  obtain ⟨e, htrace⟩ := exec_emitsAtMostOne h
  have hone : e.toList.length ≤ 1 := by cases e <;> simp
  exact ⟨e.toList, htrace, List.countP_le_length.trans hone, List.countP_le_length.trans hone⟩

/-- Settles O52, clause by clause from the definitions of a step and of an input. -/
theorem stepPerformsTheNextInput : Obligations.StepPerformsTheNextInput := by
  refine ⟨fun s bytes i rest hp hd => ?_, fun s sizes rest hp => ?_, fun s rest hp => ?_, fun s hp => ?_⟩
  · simp only [step, hp, perform, hd, State.withPending]
  · simp only [step, hp, perform, State.withPending]
  · simp only [step, hp, perform, State.withPending]
  · simp only [step, hp]

end Sys2Proof.Machine
end

section
/-! SUPPORT. Canonical memory is fixed by the bytes it reads as; the state CONSTRUCT leaves over a valid configuration
meets the invariant, and every script keeps it. -/

namespace Sys2Proof.Machine

/-! ### Canonical memory -/

/-- A byte that does not read as unwritten is listed. -/
theorem Memory.mem_of_read_ne {m : Memory} {o : Nat} (h : m.read o ≠ unwrittenByte) : (o, m.read o) ∈ m := by
  induction m with
  | nil => exact absurd rfl h
  | cons d rest ih =>
    obtain ⟨a, b⟩ := d
    by_cases ha : a = o
    · simp [Memory.read, ha]
    · simp only [Memory.read, if_neg ha] at h ⊢
      exact List.mem_cons_of_mem _ (ih h)

/-- A listed byte reads as its entry, since the offsets rise strictly. -/
theorem Memory.read_of_mem {m : Memory} (h : m.wf) {c : Host.Cell} (hc : c ∈ m) : m.read c.1 = c.2 := by
  obtain ⟨hrise, -⟩ := h
  induction m with
  | nil => exact absurd hc List.not_mem_nil
  | cons d rest ih =>
    obtain ⟨hd, hrest⟩ := List.pairwise_cons.1 hrise
    rcases List.mem_cons.1 hc with rfl | hc
    · exact if_pos rfl
    · exact (if_neg (hd c hc).ne).trans (ih hc hrest)

/-- In canonical form the entries are the bytes that do not read as unwritten. -/
theorem Memory.mem_iff_read {m : Memory} (h : m.wf) (c : Host.Cell) :
    c ∈ m ↔ m.read c.1 = c.2 ∧ c.2 ≠ unwrittenByte := by
  constructor
  · exact fun hc => ⟨Memory.read_of_mem h hc, h.2 c hc⟩
  · rintro ⟨hread, hwritten⟩
    have hlisted := Memory.mem_of_read_ne (hread ▸ hwritten)
    rwa [hread] at hlisted

/-- Canonical memories that read alike list the same entries, and the rising offsets fix their order. -/
theorem Memory.eq_of_read_eq {m m' : Memory} (h : m.wf) (h' : m'.wf) (hread : ∀ o, m.read o = m'.read o) :
    m = m' :=
  List.Pairwise.eq_of_mem_iff (r := Order.Preimage Prod.fst (· < ·)) h.1 h'.1 fun c => by
    rw [Memory.mem_iff_read h, Memory.mem_iff_read h', hread]

/-! ### The state CONSTRUCT leaves -/

/-- Two windows a valid configuration maps onto different regions do not overlap: the higher of their bases would be an
address of both. -/
theorem BusConfig.Valid.compatible {cfg : BusConfig} (h : cfg.Valid) {w w' : Window} (hw : w ∈ cfg.windows)
    (hw' : w' ∈ cfg.windows) : w.Compatible w' := by
  by_contra hclash
  obtain ⟨hregion, hoverlap⟩ := not_or.1 hclash
  obtain ⟨hbelow, habove⟩ := (w.overlaps_iff w'.base w'.length).1 (Bool.not_eq_false _ ▸ hoverlap)
  obtain ⟨-, -, hpos, -⟩ := h.windows_fit w hw
  obtain ⟨-, -, hpos', -⟩ := h.windows_fit w' hw'
  exact h.windows_apart w hw w' hw' hregion (max w.base.toNat w'.base.toNat) (by omega)

theorem State.constructed_regionSize {cfg : BusConfig} {r S : Nat} (h : cfg.regions[r]? = some S) :
    (State.constructed cfg).regionSize r = S := by
  simp [State.regionSize, State.constructed, h]

/-- CONSTRUCT over a valid configuration leaves a state that meets the invariant (42_bus.md R123). -/
theorem BusConfig.Valid.constructed_inv {cfg : BusConfig} (h : cfg.Valid) (hsizes : cfg.regions.all sizeOk = true) :
    (State.constructed cfg).Inv where
  regions_ok := (State.blank.freshTables_inv hsizes).regions_ok
  windows_ok w hw := by
    obtain ⟨S, hS, hfits⟩ := h.windows_fit w hw
    have hregion : w.region < cfg.regions.length := (List.getElem?_eq_some_iff.1 hS).1
    refine ⟨by simpa [State.constructed] using hregion, ?_⟩
    rw [State.constructed_regionSize hS]
    exact (windowFits_iff S w.base w.length).2 hfits
  windows_compatible := List.pairwise_of_forall_mem_list fun w hw w' hw' => h.compatible hw hw'
  addresses_distinct := List.pairwise_map.2 (List.pairwise_map.1 h.registers_distinct)
  rejected_kept := List.forall_mem_map.2 fun _ _ _ => rfl
  partition _ := (State.partitionOk_iff _).2 <| List.forall_mem_map.2 h.registers_outside

/-- The FLAMESSIM window table: two windows onto each of its two regions, each as long as its region. -/
theorem flamessim_window {m : AddressMap} {w : Window} (hw : w ∈ (flamessim m).windows) :
    ((w.base = m.w1aBase ∨ w.base = m.w1bBase) ∧ w.length = S1 ∧ w.region = 0) ∨
    ((w.base = m.w2aBase ∨ w.base = m.w2bBase) ∧ w.length = S2 ∧ w.region = 1) := by
  simp only [flamessim, List.mem_cons, List.not_mem_nil, or_false] at hw
  rcases hw with rfl | rfl | rfl | rfl <;> simp

/-- A window of region 1 and one of region 2 at admissible bases share no address. -/
theorem windows_apart_of_admissible {m : AddressMap} (hm : m.Admissible) {b1 b2 : Word}
    (h1 : b1 = m.w1aBase ∨ b1 = m.w1bBase) (h2 : b2 = m.w2aBase ∨ b2 = m.w2bBase) : AddressMap.apart b1 b2 := by
  obtain ⟨-, ⟨haa, hab, hba, hbb⟩, -⟩ := hm
  rcases h1 with rfl | rfl <;> rcases h2 with rfl | rfl <;> assumption

/-- FLAMESSIM over an admissible map is a configuration CONSTRUCT accepts (42_bus.md R125). -/
theorem flamessim_valid {m : AddressMap} (hm : m.Admissible) : (flamessim m).Valid where
  windows_fit w hw := by
    obtain ⟨⟨h1a, h1b, h2a, h2b⟩, -⟩ := hm
    rcases flamessim_window hw with ⟨hbase, hlen, hregion⟩ | ⟨hbase, hlen, hregion⟩
    · refine ⟨S1, hregion ▸ rfl, by simp [hlen], ?_, Or.inl hlen⟩
      rcases hbase with hbase | hbase <;> rwa [hbase, hlen]
    · refine ⟨S2, hregion ▸ rfl, by simp [hlen], ?_, Or.inl hlen⟩
      rcases hbase with hbase | hbase <;> rwa [hbase, hlen]
  windows_apart w hw w' hw' hne A := by
    rcases flamessim_window hw with ⟨hbase, hlen, hregion⟩ | ⟨hbase, hlen, hregion⟩ <;>
      rcases flamessim_window hw' with ⟨hbase', hlen', hregion'⟩ | ⟨hbase', hlen', hregion'⟩
    · exact absurd (hregion.trans hregion'.symm) hne
    · have := windows_apart_of_admissible hm hbase hbase'
      omega
    · have := windows_apart_of_admissible hm hbase' hbase
      omega
    · exact absurd (hregion.trans hregion'.symm) hne
  registers_distinct := by
    obtain ⟨-, -, -, ⟨h01, h02, h12⟩, -⟩ := hm
    simp [flamessim, h01, h02, h12]
  registers_outside d hd w hw := by
    obtain ⟨-, -, -, -, hbgcolor, hinput, haudiofreq⟩ := hm
    have houtside : m.outsideWindows d.addr := by
      simp only [flamessim, List.mem_cons, List.not_mem_nil, or_false] at hd
      rcases hd with rfl | rfl | rfl <;> assumption
    obtain ⟨h1a, h1b, h2a, h2b⟩ := houtside
    rcases flamessim_window hw with ⟨hbase, hlen, -⟩ | ⟨hbase, hlen, -⟩ <;>
      rcases hbase with hbase | hbase <;> rw [hbase, hlen] <;> omega

theorem flamessim_constructed_inv {m : AddressMap} (hm : m.Admissible) : (State.constructed (flamessim m)).Inv :=
  (flamessim_valid hm).constructed_inv (show [S1, S2].all sizeOk = true by decide)

theorem State.constructed_configuration (cfg : BusConfig) : (State.constructed cfg).configuration = cfg := by
  simp [State.configuration, State.constructed, Function.comp_def]

/-! ### Scripts -/

/-- What every completing operation keeps, every completing script keeps. -/
theorem issue_keeps {P : State → Prop} (hexec : ∀ (i : Instr) (s t : State), P s → exec i s = .next t → P t)
    {ops : List Instr} {s t : State} (hs : P s) (h : issue ops s = .next t) : P t := by
  induction ops generalizing s with
  | nil =>
    obtain rfl : s = t := by simpa [issue] using h
    exact hs
  | cons i rest ih =>
    obtain ⟨u, hfirst, hrest⟩ := andThen_next h
    exact ih (hexec i s u hs hfirst) hrest

theorem State.Inv.issue {ops : List Instr} {s t : State} (hs : s.Inv) (h : Machine.issue ops s = .next t) : t.Inv :=
  issue_keeps (fun _ _ _ hu => hu.exec) hs h

/-- A rejecting register of the configuration has its initial value in its shadow, in every state that meets the
invariant (41_register_file.md R117). -/
theorem State.Inv.shadow_of_rejects {s : State} (hs : s.Inv) {i : Nat} {d : RegDesc}
    (hd : s.configuration.registers[i]? = some d) (hreject : d.onWrite = .rejectLog) : s.shadow? i = some d.init := by
  obtain ⟨x, hx, rfl⟩ : ∃ x, s.reg[i]? = some x ∧ x.desc = d := by
    simpa only [State.configuration, List.getElem?_map, Option.map_eq_some_iff] using hd
  have hkept : x.shadow = x.desc.init := hs.rejected_kept x (List.mem_of_getElem? hx) hreject
  rw [State.shadow?, hx, Option.map_some, hkept]

end Sys2Proof.Machine
end

section
/-! The statements of 10_state.md, settled. -/

namespace Sys2Proof.Machine

/-- Settles O39: the script keeps the invariant, by which a rejecting register holds its initial value, and the
configuration, in which register 1 is the rejecting input-state register. -/
theorem inputShadowNeverChanges : Obligations.InputShadowNeverChanges := by
  intro m ops t hm h
  have hinv : t.Inv := (flamessim_constructed_inv hm).issue h
  obtain ⟨hconf, -⟩ := runKeepsTheConfiguration ops _ t rfl h
  rw [State.constructed_configuration] at hconf
  exact hinv.shadow_of_rejects (d := ⟨m.inputAddr, m.inputInit, .rejectLog, .pullInput⟩) (hconf ▸ rfl) rfl

/-- Settles O49: in canonical form the bytes determine the entries, and a word store is four byte stores, each of which
keeps the form. -/
theorem canonicalMemoryIsDeterminedByItsBytes : Obligations.CanonicalMemoryIsDeterminedByItsBytes :=
  ⟨fun _ _ h h' hread => Memory.eq_of_read_eq h h' hread, fun _ o v h => Memory.writeWord_wf o v h⟩

end Sys2Proof.Machine
end

section
/-! SUPPORT. The word codec as shifts, as a number and as the inverse of itself; what the window mapper finds, where an
address lies in the region, and what the AddressSpace answers where it finds no byte. -/

namespace Sys2Proof.Machine

/-! ### The word codec -/

theorem toNat_append_eq_add {m n : Nat} (x : BitVec m) (y : BitVec n) :
    (x ++ y).toNat = x.toNat * 2 ^ n + y.toNat := by
  rw [BitVec.toNat_append, ← Nat.shiftLeft_add_eq_or_of_lt y.isLt, Nat.shiftLeft_eq]

/-- The byte of a word that begins at bit `n`, by a shift and a mask. -/
theorem shift_and_mask_eq_extractLsb' (v : Word) (n : Nat) :
    (v >>> n &&& 0xFF).setWidth 8 = v.extractLsb' n 8 := by
  apply BitVec.eq_of_toNat_eq
  have hmask : v.toNat >>> n &&& 255 = v.toNat >>> n % 2 ^ 8 := Nat.and_two_pow_sub_one_eq_mod _ 8
  rw [BitVec.extractLsb'_toNat, BitVec.toNat_setWidth, BitVec.toNat_and, BitVec.toNat_ushiftRight,
    show (0xFF : Word).toNat = 255 from rfl, hmask, Nat.mod_mod]

theorem beByte_zero (v : Word) : beByte v 0 = v.extractLsb' 24 8 := rfl
theorem beByte_one (v : Word) : beByte v 1 = v.extractLsb' 16 8 := rfl
theorem beByte_two (v : Word) : beByte v 2 = v.extractLsb' 8 8 := rfl
theorem beByte_three (v : Word) : beByte v 3 = v.extractLsb' 0 8 := rfl

/-- Two bit fields of a word that touch make one. -/
theorem extractLsb'_append_adjacent (v : Word) (start len len' : Nat) :
    v.extractLsb' (start + len) len' ++ v.extractLsb' start len = v.extractLsb' start (len' + len) :=
  BitVec.extractLsb'_append_extractLsb'_eq_extractLsb' rfl

theorem toNat_beDecode (b0 b1 b2 b3 : Byte) :
    (beDecode b0 b1 b2 b3).toNat = b0.toNat * 2 ^ 24 + b1.toNat * 2 ^ 16 + b2.toNat * 2 ^ 8 + b3.toNat := by
  rw [beDecode, toNat_append_eq_add, toNat_append_eq_add, toNat_append_eq_add]
  omega

/-- The decoder takes back the word whose bytes it is given (20_memory.md R53). -/
theorem beDecode_beByte (v : Word) : beDecode (beByte v 0) (beByte v 1) (beByte v 2) (beByte v 3) = v := by
  rw [beByte_zero, beByte_one, beByte_two, beByte_three, beDecode, extractLsb'_append_adjacent v 16 8 8,
    extractLsb'_append_adjacent v 8 8 16, extractLsb'_append_adjacent v 0 8 24]
  exact BitVec.extractLsb'_eq_self

/-- The coder takes back the bytes it is given as a word (20_memory.md R53). -/
theorem beEncode_beDecode (b0 b1 b2 b3 : Byte) : beEncode (beDecode b0 b1 b2 b3) = [b0, b1, b2, b3] := by
  have hval := toNat_beDecode b0 b1 b2 b3
  simp only [beEncode, beByte_zero, beByte_one, beByte_two, beByte_three, List.cons.injEq, and_true,
    ← BitVec.toNat_inj, BitVec.extractLsb'_toNat, Nat.shiftRight_eq_div_pow]
  refine ⟨?_, ?_, ?_, ?_⟩ <;> omega

theorem getElem?_beEncode (v : Word) {k : Nat} (hk : k < 4) : (beEncode v)[k]? = some (beByte v k) := by
  match k, hk with
  | 0, _ | 1, _ | 2, _ | 3, _ => rfl

theorem beByte_beDecode (b0 b1 b2 b3 : Byte) {k : Nat} (hk : k < 4) :
    [b0, b1, b2, b3][k]? = some (beByte (beDecode b0 b1 b2 b3) k) := by
  rw [← getElem?_beEncode _ hk, beEncode_beDecode]

/-- The two upper bytes of one word and those of another make the word of their upper halves. -/
theorem beDecode_upper_halves (v v' : Word) :
    beDecode (beByte v 0) (beByte v 1) (beByte v' 0) (beByte v' 1) = v.extractLsb' 16 16 ++ v'.extractLsb' 16 16 := by
  rw [beByte_zero, beByte_one, beByte_zero, beByte_one, beDecode, BitVec.append_assoc, BitVec.cast_eq,
    extractLsb'_append_adjacent v 16 8 8, extractLsb'_append_adjacent v' 16 8 8]

/-! ### The window mapper -/

/-- The first match in a table: it covers the address, and no window before it does (20_memory.md R61). -/
theorem findWindowIn_some_iff {ws : List Window} {A : Word} {w : Window} :
    findWindowIn ws A = some w ↔
      ∃ before after, ws = before ++ w :: after ∧ w.covers A = true ∧ ∀ v ∈ before, v.covers A = false := by
  refine ⟨findWindowIn_some, ?_⟩
  rintro ⟨before, after, rfl, hw, hbefore⟩
  induction before with
  | nil => simp [findWindowIn, hw]
  | cons v rest ih =>
    obtain ⟨hv, hrest⟩ := List.forall_mem_cons.1 hbefore
    simp [findWindowIn, hv, ih hrest]

/-- A window that is alone in covering an address is found. -/
theorem findWindowIn_of_unique {ws : List Window} {A : Word} {w : Window} (hw : w ∈ ws) (hcovers : w.covers A = true)
    (hunique : ∀ v ∈ ws, v.covers A = true → v = w) : findWindowIn ws A = some w := by
  cases hfind : findWindowIn ws A with
  | none => simp [findWindowIn_none.1 hfind w hw] at hcovers
  | some v =>
    obtain ⟨hv, hvcovers⟩ := findWindowIn_mem hfind
    rw [hunique v hv hvcovers]

theorem Window.covers_eq_false_iff (w : Window) (A : Word) :
    w.covers A = false ↔ ¬ (w.base.toNat ≤ A.toNat ∧ A.toNat < w.base.toNat + w.length) := by
  rw [← w.covers_iff, Bool.not_eq_true]

theorem State.asRead32_of_findWindow_none {s : State} {A : Word} (h : s.findWindow A = none) :
    s.asRead32 A = .error .unmapped := by
  simp only [State.asRead32, h]

theorem State.asWrite32_of_findWindow_none {s : State} {A : Word} (h : s.findWindow A = none) (V : Word) :
    s.asWrite32 A V = .error .unmapped := by
  simp only [State.asWrite32, h]

/-! ### Offsets and the range check -/

theorem State.inRange_iff (s : State) (r off : Nat) : s.inRange r off = true ↔ off + 4 ≤ s.regionSize r := by
  simp [State.inRange]

theorem State.inRange_eq_false_iff (s : State) (r off : Nat) :
    s.inRange r off = false ↔ s.regionSize r < off + 4 := by
  simp [State.inRange]

theorem State.asRead32_of_outOfRange {s : State} {A : Word} {w : Window} (hw : s.findWindow A = some w)
    (hout : s.inRange w.region (s.offset w A) = false) : s.asRead32 A = .error .outOfRange := by
  simp [State.asRead32, hw, hout]

theorem State.asWrite32_of_outOfRange {s : State} {A : Word} {w : Window} (hw : s.findWindow A = some w)
    (hout : s.inRange w.region (s.offset w A) = false) (V : Word) : s.asWrite32 A V = .error .outOfRange := by
  simp [State.asWrite32, hw, hout]

theorem State.decodeAddress_of_findWindow {s : State} {A : Word} {w : Window} (hw : s.findWindow A = some w)
    (hin : s.inRange w.region (s.offset w A) = true) : s.decodeAddress A = .ram w.region (s.offset w A) := by
  simp [State.decodeAddress, hw, hin]

/-- As long as the end of the region is not reached, the offset rises with the address. -/
theorem State.offset_add {s : State} {w : Window} {A A' : Word} {k : Nat} (hA' : A'.toNat = A.toNat + k)
    (hbase : w.base.toNat ≤ A.toNat) (hin : s.offset w A + k < s.regionSize w.region) :
    s.offset w A' = s.offset w A + k := by
  unfold State.offset at hin ⊢
  have hk : k % s.regionSize w.region = k := Nat.mod_eq_of_lt (by omega)
  rw [hA', Nat.sub_add_comm hbase, Nat.add_mod_of_add_mod_lt (by rwa [hk]), hk]

end Sys2Proof.Machine
end

section
/-! SUPPORT. RAM through the bus: what a write stores is read back through every window onto its region, a word stored
again changes nothing, and the windows of a FLAMESSIM bus each decode to their region. -/

namespace Sys2Proof.Machine

@[simp] theorem State.ramByte_respond (s : State) (v : Option Word) (r o : Nat) :
    (s.respond v).ramByte r o = s.ramByte r o := rfl

@[simp] theorem State.ramWord_respond (s : State) (v : Option Word) (r off : Nat) :
    (s.respond v).ramWord r off = s.ramWord r off := rfl

theorem State.ramByte_congr {s t : State} (h : t.regions = s.regions) (r o : Nat) : t.ramByte r o = s.ramByte r o := by
  simp only [State.ramByte, h]

theorem State.ramWord_congr {s t : State} (h : t.regions = s.regions) (r off : Nat) :
    t.ramWord r off = s.ramWord r off := by
  simp only [State.ramWord, State.ramByte_congr h]

/-! ### Stores -/

/-- A word stored is read back (40_address_space.md R101, R102). -/
theorem State.ramWord_writeRam_same (s : State) {r : Nat} (off : Nat) (V : Word) (hr : r < s.regions.length) :
    (s.writeRam r off V).ramWord r off = V := by
  simp [State.ramWord, State.ramByte_writeRam, hr, beDecode_beByte]

/-- A store two bytes after another leaves the upper half of the first word and the whole second one. -/
theorem State.ramByte_overlapping_stores (s : State) {r : Nat} (off : Nat) (V V' : Word) (v : Option Word)
    (hr : r < s.regions.length) {k : Nat} (hk : k < 6) :
    (((s.writeRam r off V).respond v).writeRam r (off + 2) V').ramByte r (off + k) =
      if k < 2 then beByte V k else beByte V' (k - 2) := by
  have hr' : r < ((s.writeRam r off V).respond v).regions.length := by simpa using hr
  rw [State.ramByte_writeRam _ _ _ _ _ _ hr', State.ramByte_respond, State.ramByte_writeRam _ _ _ _ _ _ hr]
  by_cases hlow : k < 2
  · rw [if_neg (by omega), if_pos (by omega), if_pos hlow, Nat.add_sub_cancel_left]
  · rw [if_pos (by omega), if_neg hlow, Nat.add_sub_add_left]

/-- The word at the first of two such stores is made of the upper halves of both (20_memory.md R55). -/
theorem State.ramWord_overlapping_stores (s : State) {r : Nat} (off : Nat) (V V' : Word) (v : Option Word)
    (hr : r < s.regions.length) :
    (((s.writeRam r off V).respond v).writeRam r (off + 2) V').ramWord r off =
      V.extractLsb' 16 16 ++ V'.extractLsb' 16 16 := by
  have hbyte {k : Nat} (hk : k < 6) := s.ramByte_overlapping_stores off V V' v hr hk
  change beDecode (State.ramByte _ r (off + 0)) _ _ _ = _
  rw [hbyte (by decide), hbyte (by decide), hbyte (by decide), hbyte (by decide), ← beDecode_upper_halves]
  rfl

theorem exec_read32_ram {s : State} {A : Word} {r off : Nat} (hrun : s.phase = .run)
    (h : s.decodeAddress A = .ram r off) :
    exec (.read32 A) s = .next (s.respond (some (s.ramWord r off))) := by
  rw [exec_read32_run A hrun, State.busRead32_ram h]

theorem exec_write32_ram {s : State} {A : Word} {r off : Nat} (V : Word) (hrun : s.phase = .run)
    (h : s.decodeAddress A = .ram r off) :
    exec (.write32 A V) s = .next ((s.writeRam r off V).respond none) := by
  rw [exec_write32_run A V hrun, State.busWrite32_ram h]

/-- A store to RAM changes no address's target. -/
theorem State.decodeAddress_writeRam (s : State) (r off : Nat) (V : Word) (v : Option Word) (A : Word) :
    ((s.writeRam r off V).respond v).decodeAddress A = s.decodeAddress A :=
  State.decodeAddress_congr (s.configuration_writeRam r off V) A

/-- A value written to one of two addresses of the same byte of RAM is read at the other (20_memory.md R58). -/
theorem write32_then_read32_ram {s : State} {A A' : Word} {r off : Nat} (V : Word) (hrun : s.phase = .run)
    (hA : s.decodeAddress A = .ram r off) (hA' : s.decodeAddress A' = .ram r off) :
    ∃ t u, exec (.write32 A V) s = .next t ∧ exec (.read32 A') t = .next u ∧ u.rdata = some V := by
  refine ⟨_, _, exec_write32_ram V hrun hA,
    exec_read32_ram hrun ((s.decodeAddress_writeRam r off V none A').trans hA'), ?_⟩
  simp [s.ramWord_writeRam_same off V (State.decodeAddress_ram_region hA)]

/-! ### Storing what is stored already -/

theorem Region.writeWord_eq_self {g : Region} (hg : g.Ok) {off : Nat} {V : Word}
    (hV : ∀ k < 4, g.ram.read (off + k) = beByte V k) : g.writeWord off V = g := by
  suffices hram : g.ram.writeWord off V = g.ram by rw [Region.writeWord, hram]
  refine Memory.eq_of_read_eq (Memory.writeWord_wf off V hg.canonical) hg.canonical fun o => ?_
  rw [Memory.read_writeWord]
  split
  · next ho =>
    rw [← hV (o - off) (by omega), Nat.add_sub_cancel' ho.1]
  · rfl

/-- The bytes of a word of RAM. -/
theorem State.beByte_ramWord (s : State) (r off : Nat) {k : Nat} (hk : k < 4) :
    beByte (s.ramWord r off) k = s.ramByte r (off + k) := by
  have hbyte := beByte_beDecode (s.ramByte r off) (s.ramByte r (off + 1)) (s.ramByte r (off + 2))
    (s.ramByte r (off + 3)) hk
  match k, hk with
  | 0, _ | 1, _ | 2, _ | 3, _ => exact (Option.some.inj hbyte).symm

theorem State.writeRam_eq_self {s : State} (hs : s.Inv) {r off : Nat} {V : Word} (hV : s.ramWord r off = V) :
    s.writeRam r off V = s := by
  suffices hregions : s.regions.modify r (Region.writeWord off V) = s.regions by rw [State.writeRam, hregions]
  refine List.ext_getElem? fun i => ?_
  rw [List.getElem?_modify]
  cases hg : s.regions[i]? with
  | none => rfl
  | some g =>
    by_cases hi : r = i
    · subst hi
      have hbytes (k : Nat) (hk : k < 4) : g.ram.read (off + k) = beByte V k := by
        rw [← hV, s.beByte_ramWord r off hk, State.ramByte, hg]
      simp [Region.writeWord_eq_self (hs.regions_ok g (List.mem_of_getElem? hg)) hbytes]
    · simp [hi]

/-! ### The windows of FLAMESSIM -/

theorem State.Flamessim.win {s : State} {m : AddressMap} (h : s.Flamessim m) : s.win = (flamessim m).windows :=
  congrArg BusConfig.windows h.configured

theorem State.Flamessim.regionSize {s : State} {m : AddressMap} (h : s.Flamessim m) (r : Nat) :
    s.regionSize r = (State.constructed (flamessim m)).regionSize r := by
  have hconf := h.configured.trans (State.constructed_configuration (flamessim m)).symm
  exact State.regionSize_congr (State.configuration_eq_iff.1 hconf).1 r

theorem State.Flamessim.regionSize_zero {s : State} {m : AddressMap} (h : s.Flamessim m) : s.regionSize 0 = S1 :=
  (h.regionSize 0).trans (State.constructed_regionSize rfl)

theorem State.Flamessim.regionSize_one {s : State} {m : AddressMap} (h : s.Flamessim m) : s.regionSize 1 = S2 :=
  (h.regionSize 1).trans (State.constructed_regionSize rfl)

/-- Each FLAMESSIM window is as long as its region (42_bus.md R125). -/
theorem State.Flamessim.regionSize_window {s : State} {m : AddressMap} (h : s.Flamessim m) {w : Window}
    (hw : w ∈ (flamessim m).windows) : s.regionSize w.region = w.length := by
  rcases flamessim_window hw with ⟨-, hlen, hregion⟩ | ⟨-, hlen, hregion⟩
  · rw [hregion, hlen, h.regionSize_zero]
  · rw [hregion, hlen, h.regionSize_one]

/-- No two FLAMESSIM windows share an address: the premises (b) and (c) of 42_bus.md R125. -/
theorem flamessim_covers_unique {m : AddressMap} (hm : m.Admissible) {v w : Window} {A : Word}
    (hv : v ∈ (flamessim m).windows) (hw : w ∈ (flamessim m).windows) (hvA : v.covers A = true)
    (hwA : w.covers A = true) : v = w := by
  have hpairs : (flamessim m).windows.Pairwise fun v w => v.covers A = true → w.covers A = true → v = w := by
    obtain ⟨-, ⟨haa, hab, hba, hbb⟩, ⟨h1, h2⟩, -⟩ := hm
    simp only [flamessim, List.pairwise_cons, List.forall_mem_cons, List.not_mem_nil, false_imp_iff, implies_true,
      List.Pairwise.nil, and_true, Window.covers_iff]
    refine ⟨⟨?_, ?_, ?_⟩, ⟨?_, ?_⟩, ?_⟩ <;> intro hcovers hcovers' <;> omega
  have hflip : (flamessim m).windows.Pairwise (flip fun v w => v.covers A = true → w.covers A = true → v = w) :=
    hpairs.imp fun hxy hy hx => (hxy hx hy).symm
  exact hpairs.forall_of_forall_of_flip (fun _ _ _ _ => rfl) hflip hv hw hvA hwA

/-- An in-range offset of a FLAMESSIM window decodes to that offset of the window's region. -/
theorem State.Flamessim.decodeAddress_window {s : State} {m : AddressMap} (hm : m.Admissible) (h : s.Flamessim m)
    {w : Window} (hw : w ∈ (flamessim m).windows) {A : Word} {o : Nat} (hA : A.toNat = w.base.toNat + o)
    (ho : o + 4 ≤ w.length) : s.decodeAddress A = .ram w.region o := by
  have hsize := h.regionSize_window hw
  have hcovers : w.covers A = true := (w.covers_iff A).2 (by omega)
  have hfind : s.findWindow A = some w :=
    findWindowIn_of_unique (h.win ▸ hw) hcovers fun v hv hvA => flamessim_covers_unique hm (h.win ▸ hv) hw hvA hcovers
  have hoff : s.offset w A = o := by
    rw [State.offset, hA, Nat.add_sub_cancel_left, hsize, Nat.mod_eq_of_lt (by omega)]
  rw [State.decodeAddress_of_findWindow hfind ((s.inRange_iff _ _).2 (by omega)), hoff]

/-- A value written through one of two FLAMESSIM windows onto one region is read through the other, at one offset
(20_memory.md R58). -/
theorem State.Flamessim.write32_then_read32 {s : State} {m : AddressMap} (hm : m.Admissible) (h : s.Flamessim m)
    {v w : Window} (hv : v ∈ (flamessim m).windows) (hw : w ∈ (flamessim m).windows) (hregion : v.region = w.region)
    {o : Nat} (hov : o + 4 ≤ v.length) (how : o + 4 ≤ w.length) {A B : Word} (hA : A.toNat = v.base.toNat + o)
    (hB : B.toNat = w.base.toNat + o) (V : Word) :
    ∃ t u, exec (.write32 A V) s = .next t ∧ exec (.read32 B) t = .next u ∧ u.rdata = some V :=
  write32_then_read32_ram V h.running (hregion ▸ h.decodeAddress_window hm hv hA hov)
    (h.decodeAddress_window hm hw hB how)

end Sys2Proof.Machine
end

section
/-! SUPPORT. A write repeated changes nothing more, and a script folds the latest write into each byte and each
shadow. -/

namespace Sys2Proof.Machine

/-! ### Registers -/

/-- A store to shadow `j` leaves register `i` as it is, but for its shadow when `j` is `i`. -/
theorem State.getElem?_setShadow {s : State} {i : Nat} {x : IoRegister} (hx : s.reg[i]? = some x) (j : Nat) (V : Word) :
    (s.setShadow j V).reg[i]? = some { x with shadow := if j = i then V else x.shadow } := by
  rw [State.setShadow_reg, List.getElem?_modify, hx]
  by_cases hj : j = i <;> simp [hj]

theorem State.setShadow_eq_self {s : State} {i : Nat} {V : Word} (h : s.shadow? i = some V) : s.setShadow i V = s := by
  obtain ⟨x, hx, rfl⟩ := Option.map_eq_some_iff.1 h
  suffices hreg : (s.setShadow i x.shadow).reg = s.reg by rw [State.setShadow, ← State.setShadow_reg, hreg]
  refine List.ext_getElem? fun j => ?_
  cases hy : s.reg[j]? with
  | none => rw [State.setShadow_reg, List.getElem?_modify, hy]; rfl
  | some y =>
    rw [State.getElem?_setShadow hy]
    by_cases hi : i = j
    · obtain rfl : x = y := Option.some.inj ((hi ▸ hx).symm.trans hy)
      simp
    · simp [hi]

/-- States of one configuration have the same registers, but for their shadows. -/
theorem State.desc_congr {s t : State} (h : t.configuration = s.configuration) {i : Nat} {x y : IoRegister}
    (hx : s.reg[i]? = some x) (hy : t.reg[i]? = some y) : y.desc = x.desc := by
  obtain ⟨-, -, hreg⟩ := State.configuration_eq_iff.1 h
  have hdesc : (t.reg.map IoRegister.desc)[i]? = (s.reg.map IoRegister.desc)[i]? := by rw [hreg]
  simpa [hx, hy] using hdesc

/-! ### The events of a write -/

/-- What the handler of a register sends out on a write, over the connections `c` (41_register_file.md R115 to
R117). -/
def handlerEvents (c : Connections) (d : RegDesc) (V : Word) : List Event :=
  match d.onWrite with
  | .none => []
  | .fwdDisplay => (c.display.map fun h => .setBackgroundColor h V).toList
  | .fwdAudio => (c.audio.map fun h => .setToneFrequency h (Config.audioWordToHz V)).toList
  | .rejectLog => [.diag .writeIgnored .write d.addr]

theorem State.writeRegister_trace (s : State) (i : Nat) (x : IoRegister) (V : Word) :
    (s.writeRegister i x V).trace = s.trace ++ handlerEvents s.conn x.desc V := by
  unfold State.writeRegister handlerEvents
  cases x.desc.onWrite with
  | none => simp
  | fwdDisplay => cases hd : s.conn.display <;> simp [State.fwdDisplay, hd]
  | fwdAudio => cases ha : s.conn.audio <;> simp [State.fwdAudio, ha]
  | rejectLog => rfl

/-- The events of a write depend on the configuration and the connections alone. -/
theorem State.busWrite32_trace_congr {s t : State} (hconf : t.configuration = s.configuration) (hconn : t.conn = s.conn)
    (A V : Word) : ∃ events, (s.busWrite32 A V).trace = s.trace ++ events ∧
      (t.busWrite32 A V).trace = t.trace ++ events := by
  have htarget := State.decodeAddress_congr hconf A
  cases h : s.decodeAddress A with
  | ram r off =>
    rw [State.busWrite32_ram h, State.busWrite32_ram (htarget.trans h)]
    exact ⟨[], (List.append_nil _).symm, (List.append_nil _).symm⟩
  | ramOutOfRange w =>
    rw [State.busWrite32_ramOutOfRange h, State.busWrite32_ramOutOfRange (htarget.trans h)]
    exact ⟨_, rfl, rfl⟩
  | reg i =>
    obtain ⟨x, hx, -, hs⟩ := State.busWrite32_reg (V := V) h
    obtain ⟨y, hy, -, ht⟩ := State.busWrite32_reg (V := V) (htarget.trans h)
    refine ⟨handlerEvents s.conn x.desc V, hs ▸ s.writeRegister_trace i x V, ?_⟩
    rw [ht, t.writeRegister_trace, hconn, State.desc_congr hconf hx hy]
  | unmapped =>
    rw [State.busWrite32_unmapped h, State.busWrite32_unmapped (htarget.trans h)]
    exact ⟨_, rfl, rfl⟩

theorem State.busWrite32_conn (s : State) (A V : Word) : (s.busWrite32 A V).conn = s.conn := by
  rcases s.busWrite32_effect A V with ⟨r, off, -, hw⟩ | ⟨i, x, -, -, hsame⟩ | hsame
  · rw [hw, State.writeRam_conn]
  · rw [hsame.conn, State.setShadow_conn]
  · exact hsame.conn

/-! ### A write repeated -/

/-- A write finds what the same write stored, and changes nothing of the block (20_memory.md R59). -/
theorem State.SameBlock.busWrite32_again {s t : State} (hs : s.Inv) {A V : Word}
    (hfirst : (s.busWrite32 A V).SameBlock t) : t.SameBlock (t.busWrite32 A V) := by
  have hinv : t.Inv := (hs.busWrite32 A V).of_sameBlock hfirst
  have hconf : t.configuration = s.configuration := hfirst.configuration.trans (s.busWrite32_configuration A V).1
  have htarget := State.decodeAddress_congr hconf A
  cases h : s.decodeAddress A with
  | ram r off =>
    rw [State.busWrite32_ram h] at hfirst
    have hstored : t.ramWord r off = V :=
      (State.ramWord_congr hfirst.regions r off).trans
        (s.ramWord_writeRam_same off V (State.decodeAddress_ram_region h))
    rw [State.busWrite32_ram (htarget.trans h), State.writeRam_eq_self hinv hstored]
    exact .refl t
  | ramOutOfRange w => exact State.busWrite32_ramOutOfRange (htarget.trans h) ▸ .recover t _ _ A
  | reg i =>
    obtain ⟨x, hx, -, hs⟩ := State.busWrite32_reg (V := V) h
    obtain ⟨y, hy, -, ht⟩ := State.busWrite32_reg (V := V) (htarget.trans h)
    rw [ht]
    rcases t.writeRegister_effect i y V with ⟨hstores, hsame⟩ | ⟨-, hsame⟩
    · rw [State.desc_congr hconf hx hy] at hstores
      rw [hs] at hfirst
      have hreg : t.reg = (s.setShadow i V).reg := by
        rcases s.writeRegister_effect i x V with ⟨-, hstored⟩ | ⟨hrejects, -⟩
        · rw [hfirst.reg, hstored.reg]
        · exact absurd hrejects hstores
      have hshadow : t.shadow? i = some V := by
        rw [State.shadow?, hreg, State.getElem?_setShadow hx]
        simp
      rwa [State.setShadow_eq_self hshadow] at hsame
    · exact hsame
  | unmapped => exact State.busWrite32_unmapped (htarget.trans h) ▸ .recover t _ _ A

/-! ### Scripts -/

/-- An observation that each operation on a running bus updates as `update` says is, after a script, the fold of the
updates. The updates read only the configuration, which no operation changes. -/
theorem issue_foldl {α : Type} {P : State → α → Prop} {update : State → α → Instr → α}
    (hcongr : ∀ s t : State, t.configuration = s.configuration → update t = update s)
    (hexec : ∀ (i : Instr) (s t : State) (a : α), s.phase = .run → P s a → exec i s = .next t → P t (update s a i))
    {ops : List Instr} {s t : State} {a : α} (hrun : s.phase = .run) (ha : P s a) (h : issue ops s = .next t) :
    P t (ops.foldl (update s) a) := by
  induction ops generalizing s a with
  | nil =>
    obtain rfl : s = t := by simpa [issue] using h
    exact ha
  | cons i rest ih =>
    obtain ⟨u, hfirst, hrest⟩ := andThen_next h
    obtain ⟨hconf, hrun'⟩ := exec_keeps_configuration hrun hfirst
    rw [List.foldl_cons, ← hcongr s u hconf]
    exact ih hrun' (hcongr s u hconf ▸ hexec i s u a hrun ha hfirst) hrest

/-- An operation on a running bus that is no WRITE32 leaves every region and every register as it was. -/
theorem exec_keeps_storage {i : Instr} {s t : State} (hrun : s.phase = .run) (h : exec i s = .next t)
    (hi : ∀ A V, i ≠ .write32 A V) : t.regions = s.regions ∧ t.reg = s.reg := by
  cases i with
  | read32 A =>
    obtain ⟨-, rfl⟩ := execRead32_next h
    have hsame := State.SameBlock.busRead32 s A
    exact ⟨hsame.regions, hsame.reg⟩
  | write32 A V => exact absurd rfl (hi A V)
  | connect k c =>
    obtain ⟨-, rfl⟩ := execConnect_next h
    exact ⟨rfl, rfl⟩
  | mapwindow base length region =>
    obtain ⟨hcon, -⟩ := execMapwindow_next h
    simp [hrun] at hcon
  | defreg addr init onWrite onRead =>
    obtain ⟨hcon, -⟩ := execDefreg_next h
    simp [hrun] at hcon

theorem State.byteAfter_congr {s t : State} (h : t.configuration = s.configuration) (r o : Nat) :
    t.byteAfter r o = s.byteAfter r o := by
  funext before i
  cases i <;> simp only [State.byteAfter, State.decodeAddress_congr h]

theorem State.shadowAfter_congr {s t : State} (h : t.configuration = s.configuration) (i : Nat) (x : IoRegister) :
    t.shadowAfter i x = s.shadowAfter i x := by
  funext before op
  cases op <;> simp only [State.shadowAfter, State.decodeAddress_congr h]

theorem State.ramByte_busWrite32 (s : State) (A V : Word) (r o : Nat) :
    (s.busWrite32 A V).ramByte r o = s.byteAfter r o (s.ramByte r o) (.write32 A V) := by
  cases h : s.decodeAddress A with
  | ram r' off =>
    rw [State.busWrite32_ram h, State.ramByte_writeRam _ _ _ _ _ _ (State.decodeAddress_ram_region h)]
    simp only [State.byteAfter, h, eq_comm]
  | ramOutOfRange w => simp only [State.busWrite32_ramOutOfRange h, State.byteAfter, h]; rfl
  | reg i =>
    obtain ⟨x, -, -, hw⟩ := State.busWrite32_reg (V := V) h
    simp only [State.byteAfter, h]
    refine State.ramByte_congr ?_ r o
    rw [hw]
    rcases s.writeRegister_effect i x V with ⟨-, hsame⟩ | ⟨-, hsame⟩
    · rw [hsame.regions, State.setShadow_regions]
    · exact hsame.regions
  | unmapped => simp only [State.busWrite32_unmapped h, State.byteAfter, h]; rfl

theorem exec_ramByte {i : Instr} {s t : State} (hrun : s.phase = .run) (h : exec i s = .next t) (r o : Nat) :
    t.ramByte r o = s.byteAfter r o (s.ramByte r o) i := by
  cases i with
  | write32 A V =>
    obtain ⟨-, rfl⟩ := execWrite32_next h
    exact s.ramByte_busWrite32 A V r o
  | _ => exact State.ramByte_congr (exec_keeps_storage hrun h nofun).1 r o

theorem State.register_busWrite32 {s : State} {i : Nat} {x : IoRegister} (hx : s.reg[i]? = some x) (A V : Word) :
    (s.busWrite32 A V).reg[i]? = some { x with shadow := s.shadowAfter i x x.shadow (.write32 A V) } := by
  cases h : s.decodeAddress A with
  | ram r off => simp [State.busWrite32_ram h, State.shadowAfter, h, hx]
  | ramOutOfRange w => simp [State.busWrite32_ramOutOfRange h, State.shadowAfter, h, hx]
  | reg j =>
    obtain ⟨y, hy, -, hw⟩ := State.busWrite32_reg (V := V) h
    have heq (hj : j = i) : y = x := Option.some.inj (hy.symm.trans (hj ▸ hx))
    rw [hw]
    rcases s.writeRegister_effect j y V with ⟨hstores, hsame⟩ | ⟨hrejects, hsame⟩
    · rw [hsame.reg, State.getElem?_setShadow hx]
      by_cases hj : j = i
      · simp [State.shadowAfter, h, hj, heq hj ▸ hstores]
      · simp [State.shadowAfter, h, hj]
    · rw [hsame.reg, hx]
      by_cases hj : j = i
      · simp [State.shadowAfter, heq hj ▸ hrejects]
      · simp [State.shadowAfter, h, hj]
  | unmapped => simp [State.busWrite32_unmapped h, State.shadowAfter, h, hx]

theorem exec_register {op : Instr} {s t : State} (hrun : s.phase = .run) (h : exec op s = .next t) {i : Nat}
    {x : IoRegister} (hx : s.reg[i]? = some x) :
    t.reg[i]? = some { x with shadow := s.shadowAfter i x x.shadow op } := by
  cases op with
  | write32 A V =>
    obtain ⟨-, rfl⟩ := execWrite32_next h
    exact State.register_busWrite32 hx A V
  | _ => exact (exec_keeps_storage hrun h nofun).2 ▸ hx

end Sys2Proof.Machine
end

section
/-! The statements of 20_memory.md, settled. -/

namespace Sys2Proof.Machine

/-- Settles O1: each append of a zero-extended byte is a shift and an or. -/
theorem wordDecoderIsShiftsAndOr : Obligations.WordDecoderIsShiftsAndOr := by
  refine ⟨fun b0 b1 b2 b3 => ⟨?_, rfl, toNat_beDecode b0 b1 b2 b3, (beDecode b0 b1 b2 b3).isLt⟩, by decide⟩
  have happend := BitVec.setWidth_append_append_append_eq_shiftLeft_setWidth_or (w'''' := 32) (b := b0) (b' := b1)
    (b'' := b2) (b''' := b3)
  rwa [BitVec.setWidth_eq] at happend

/-- Settles O2: a byte of the coder is a field of the word, and the store puts the coder's bytes at rising offsets. -/
theorem wordCoderIsHighToLow : Obligations.WordCoderIsHighToLow := by
  refine fun v => ⟨?_, rfl, fun m o k hk => ?_⟩
  · have hlow : (v &&& 0xFF).setWidth 8 = v.extractLsb' 0 8 := by
      simpa using shift_and_mask_eq_extractLsb' v 0
    rw [shift_and_mask_eq_extractLsb', shift_and_mask_eq_extractLsb', shift_and_mask_eq_extractLsb', hlow]
    rfl
  · rw [getElem?_beEncode v hk, Memory.read_writeWord, if_pos (by omega), Nat.add_sub_cancel_left]

/-- Settles O3. -/
theorem wordCodecRoundTrip : Obligations.WordCodecRoundTrip := ⟨beDecode_beByte, beEncode_beDecode⟩

/-- Settles O4: the search of the window table, and the check of R100 (b) that the invariant keeps. -/
theorem firstMatchingWindowIsFound : Obligations.FirstMatchingWindowIsFound := by
  refine fun s A => ⟨fun w => ?_, ?_, fun hnone => ?_, fun hs w hw => ?_⟩
  · simp only [State.findWindow, findWindowIn_some_iff, Window.covers_iff, Window.covers_eq_false_iff]
  · simp only [State.findWindow, findWindowIn_none, Window.covers_eq_false_iff]
  · exact ⟨State.asRead32_of_findWindow_none hnone, State.asWrite32_of_findWindow_none hnone⟩
  · obtain ⟨-, hfits⟩ := hs.windows_ok w hw
    obtain ⟨-, hend, -⟩ := (windowFits_iff _ _ _).1 hfits
    exact hend

/-- Settles O5: the offset is a remainder by definition; the rest is arithmetic of remainders. -/
theorem offsetIsRemainder : Obligations.OffsetIsRemainder := by
  intro s w A hbase hend
  refine ⟨rfl, by omega, fun k hk => ?_, fun hlen => Nat.mod_eq_of_lt (by omega), fun A' hA' _ => ?_⟩
  · rw [hk, Nat.and_two_pow_sub_one_eq_mod, State.offset, hk]
  · rw [State.offset, State.offset, hA', Nat.sub_add_comm hbase, Nat.add_mod_right]

/-- Settles O6: each bound is the range check's own inequality. -/
theorem rangeCheckIsExact : Obligations.RangeCheckIsExact := by
  refine ⟨fun s r off => ⟨s.inRange_iff r off, s.inRange_iff r off, fun hsize => ?_, fun hsize => ?_⟩,
    fun s A V w hw hout => ?_, fun m s off h => ?_⟩
  · simp only [State.inRange_iff, State.inRange_eq_false_iff]
    omega
  · exact (s.inRange_eq_false_iff r off).2 (by omega)
  · have hfalse := (s.inRange_eq_false_iff _ _).2 hout
    exact ⟨State.asRead32_of_outOfRange hw hfalse, State.asWrite32_of_outOfRange hw hfalse V⟩
  · rw [State.inRange_iff, State.inRange_iff, h.regionSize_zero, h.regionSize_one]
    unfold S1 S2
    omega

/-- Settles O22: both addresses decode to one byte of RAM; and a store sets bytes of its own region only. -/
theorem windowsOntoOneRegionShareItsBytes : Obligations.WindowsOntoOneRegionShareItsBytes := by
  intro s A1 A2 V w1 w2 hrun hw1 hw2 hin
  have hA1 := State.decodeAddress_of_findWindow hw1 hin
  refine ⟨fun hregion hoff => ?_, fun hregion => ⟨_, exec_write32_ram V hrun hA1, fun o => ?_⟩⟩
  · rw [hregion, hoff] at hA1 hin
    exact write32_then_read32_ram V hrun hA1 (State.decodeAddress_of_findWindow hw2 hin)
  · rw [State.ramByte_respond, State.ramByte_writeRam _ _ _ _ _ _ (State.decodeAddress_ram_region hA1),
      if_neg fun h => hregion h.1.symm]

/-- Settles O23: the second store begins two bytes after the first and replaces its two lower bytes. -/
theorem overlappingWritesCombine : Obligations.OverlappingWritesCombine := by
  intro s A A2 V1 V2 w hrun hA2 hw hw2 hin hin2
  have hbase : w.base.toNat ≤ A.toNat := ((w.covers_iff A).1 (findWindowIn_mem hw).2).1
  have hoff : s.offset w A2 = s.offset w A + 2 :=
    State.offset_add hA2 hbase (by have := (s.inRange_iff _ _).1 hin; omega)
  have hd := State.decodeAddress_of_findWindow hw hin
  have hd2 := State.decodeAddress_of_findWindow hw2 hin2
  rw [hoff] at hd2
  have hr := State.decodeAddress_ram_region hd
  have hd2' := (s.decodeAddress_writeRam w.region (s.offset w A) V1 none A2).trans hd2
  have hd' := (s.decodeAddress_writeRam w.region (s.offset w A) V1 none A).trans hd
  refine ⟨_, _, _, exec_write32_ram V1 hrun hd, exec_write32_ram V2 hrun hd2', ?_,
    exec_read32_ram hrun ((State.decodeAddress_writeRam _ _ _ _ _ A).trans hd'), ?_⟩
  · simp only [State.ramByte_respond]
    rw [List.map_congr_left fun k hk =>
      s.ramByte_overlapping_stores (s.offset w A) V1 V2 none hr (List.mem_range.1 hk)]
    rfl
  · exact congrArg some (s.ramWord_overlapping_stores (s.offset w A) V1 V2 none hr)

/-- Settles O24: the second write finds the first one's word stored, and sends the same events over the same
connections. -/
theorem repeatedWriteRepeatsOnlyItsEvents : Obligations.RepeatedWriteRepeatsOnlyItsEvents := by
  intro s A V hs hrun
  let t := (s.busWrite32 A V).respond none
  obtain ⟨hconf, hphase⟩ := s.busWrite32_configuration A V
  obtain ⟨events, hfirst, hsecond⟩ :=
    State.busWrite32_trace_congr (t := t) hconf (s.busWrite32_conn A V) A V
  have hsame : t.SameBlock (t.busWrite32 A V) := .busWrite32_again hs (.respond _ _)
  exact ⟨t, _, events, exec_write32_run A V hrun, exec_write32_run A V (hphase.trans hrun),
    hsame.trans (.respond _ _), hfirst, hsecond⟩

/-- Settles O41: each operation updates a byte of RAM as the statement's fold does. -/
theorem ramHoldsTheLatestWrite : Obligations.RamHoldsTheLatestWrite := by
  intro ops s t r o hrun h
  refine issue_foldl (P := fun u b => u.ramByte r o = b) (update := fun u => u.byteAfter r o)
    (fun _ _ hconf => State.byteAfter_congr hconf r o) ?_ hrun rfl h
  rintro i u v _ hrun' rfl hexec
  exact exec_ramByte hrun' hexec r o

/-- Settles O42: each operation updates a shadow as the statement's fold does, and no other part of the register. -/
theorem shadowHoldsTheLatestWrite : Obligations.ShadowHoldsTheLatestWrite := by
  intro ops s t i x hrun hx h
  exact issue_foldl (P := fun u v => u.reg[i]? = some { x with shadow := v }) (update := fun u => u.shadowAfter i x)
    (fun _ _ hconf => State.shadowAfter_congr hconf i x) (fun _ _ _ _ hrun' hx' hexec => exec_register hrun' hexec hx')
    hrun hx h

/-- Settles O44: at one offset the two windows of a region decode to one byte of it. -/
theorem flamessimWindowsMirrorEachOther : Obligations.FlamessimWindowsMirrorEachOther := by
  intro m s o V hm h
  have w1a : ⟨m.w1aBase, S1, 0⟩ ∈ (flamessim m).windows := by simp [flamessim]
  have w1b : ⟨m.w1bBase, S1, 0⟩ ∈ (flamessim m).windows := by simp [flamessim]
  have w2a : ⟨m.w2aBase, S2, 1⟩ ∈ (flamessim m).windows := by simp [flamessim]
  have w2b : ⟨m.w2bBase, S2, 1⟩ ∈ (flamessim m).windows := by simp [flamessim]
  refine ⟨fun ho A B hAB => ?_, fun ho A B hAB => ?_⟩
  · have hin : o + 4 ≤ S1 := by unfold S1; omega
    rcases hAB with ⟨hA, hB⟩ | ⟨hA, hB⟩
    · exact h.write32_then_read32 hm w1a w1b rfl hin hin hA hB V
    · exact h.write32_then_read32 hm w1b w1a rfl hin hin hA hB V
  · have hin : o + 4 ≤ S2 := by unfold S2; omega
    rcases hAB with ⟨hA, hB⟩ | ⟨hA, hB⟩
    · exact h.write32_then_read32 hm w2a w2b rfl hin hin hA hB V
    · exact h.write32_then_read32 hm w2b w2a rfl hin hin hA hB V

end Sys2Proof.Machine
end

section
/-! SUPPORT. Decoding undoes encoding, operand bus by operand bus, and a reserved op code names no operation. -/

namespace Sys2Proof.Machine

/-! ### One operand bus -/

@[simp] theorem decodeKind_code (k : PeripheralKind) : decodeKind k.code = some k := by cases k <;> rfl

@[simp] theorem decodeOnWrite_code (h : WriteHandler) : decodeOnWrite h.code = h := by cases h <;> rfl

@[simp] theorem decodeOnRead_code (h : ReadHandler) : decodeOnRead h.code = h := by cases h <;> rfl

/-- A length that fits its 33 lines is bit 32 above the low word (30_encoding.md R81). -/
theorem decodeLength_of_lt {length : Nat} (h : length < 2 ^ 33) :
    decodeLength (BitVec.ofNat 8 (length / 2 ^ 32 % 2)) (BitVec.ofNat 32 length) = length := by
  simp only [decodeLength, BitVec.toNat_ofNat]
  omega

/-! ### The operands of one format -/

theorem decodeBus_beEncode (addr wdata : Word) :
    decodeBus (beEncode addr ++ beEncode wdata) = .ok (addr, wdata) := by
  simp [decodeBus, beEncode, beDecode_beByte]

theorem decodeConnect_beEncode (kind : PeripheralKind) {handle : Handle} (h : handle.name < 2 ^ 32) :
    decodeConnect (kind.code :: beEncode (BitVec.ofNat 32 handle.name)) = .ok (.connect kind handle) := by
  simp only [decodeConnect, beEncode, beDecode_beByte, decodeKind_code, BitVec.toNat_ofNat, Nat.mod_eq_of_lt h]

theorem decodeMapwindow_beEncode (base : Word) {length region : Nat} (hlength : length < 2 ^ 33)
    (hregion : region < 2 ^ 32) :
    decodeMapwindow (beEncode base ++ BitVec.ofNat 8 (length / 2 ^ 32 % 2) :: beEncode (BitVec.ofNat 32 length) ++
      beEncode (BitVec.ofNat 32 region)) = .ok (.mapwindow base length region) := by
  simp only [decodeMapwindow, beEncode, List.cons_append, List.nil_append, beDecode_beByte, decodeLength_of_lt hlength,
    BitVec.toNat_ofNat, Nat.mod_eq_of_lt hregion]

theorem decodeDefreg_beEncode (addr init : Word) (onWrite : WriteHandler) (onRead : ReadHandler) :
    decodeDefreg (beEncode addr ++ beEncode init ++ [onWrite.code, onRead.code]) =
      .ok (.defreg addr init onWrite onRead) := by
  simp [decodeDefreg, beEncode, beDecode_beByte]

/-! ### The op code -/

/-- The op codes 101, 110 and 111 name no operation, whatever follows (30_encoding.md R85). -/
theorem decode_reserved {op : Byte} (args : List Byte) (h : 5 ≤ op.toNat % 8) :
    decode (op :: args) = .error (.reservedOp (op.toNat % 8)) := by
  simp only [decode]
  split
  case h_6 => rfl
  all_goals omega

end Sys2Proof.Machine
end

section
/-! SUPPORT. What an address decodes to on a FLAMESSIM bus, window by window and register by register, and what an
operation out of its phase is answered. -/

namespace Sys2Proof.Machine

/-! ### The decode map -/

/-- A register is found at its address, if no two registers of the table share an address (41_register_file.md R111). -/
theorem findRegIn_of_getElem? {xs : List IoRegister} (hxs : (xs.map fun x => x.desc.addr).Nodup) {i : Nat}
    {x : IoRegister} (hx : xs[i]? = some x) : findRegIn xs x.desc.addr = some i := by
  cases hfind : findRegIn xs x.desc.addr with
  | none => exact absurd rfl (findRegIn_none.1 hfind x (List.mem_of_getElem? hx))
  | some j =>
    obtain ⟨y, hy, haddr⟩ := findRegIn_some hfind
    obtain ⟨hi, -⟩ := List.getElem?_eq_some_iff.1 hx
    have hij : i = j := (List.getElem?_inj (by simpa using hi) hxs).1 (by simp [hx, hy, haddr])
    rw [hij]

theorem State.decodeAddress_of_findReg {s : State} {A : Word} {i : Nat} (hw : s.findWindow A = none)
    (hr : s.findReg A = some i) : s.decodeAddress A = .reg i := by
  simp only [State.decodeAddress, hw, hr]

theorem State.decodeAddress_of_none {s : State} {A : Word} (hw : s.findWindow A = none) (hr : s.findReg A = none) :
    s.decodeAddress A = .unmapped := by
  simp only [State.decodeAddress, hw, hr]

theorem State.decodeAddress_of_outOfRange {s : State} {A : Word} {w : Window} (hw : s.findWindow A = some w)
    (hout : s.inRange w.region (s.offset w A) = false) : s.decodeAddress A = .ramOutOfRange w := by
  simp [State.decodeAddress, hw, hout]

theorem State.Flamessim.findWindow_eq_some {s : State} {m : AddressMap} (hm : m.Admissible) (h : s.Flamessim m)
    {w : Window} (hw : w ∈ (flamessim m).windows) {A : Word} (hcovers : w.covers A = true) : s.findWindow A = some w :=
  findWindowIn_of_unique (h.win ▸ hw) hcovers fun _ hv hvA => flamessim_covers_unique hm (h.win ▸ hv) hw hvA hcovers

/-- The last three addresses of a FLAMESSIM window are out of range (30_encoding.md R84). -/
theorem State.Flamessim.decodeAddress_window_end {s : State} {m : AddressMap} (hm : m.Admissible) (h : s.Flamessim m)
    {w : Window} (hw : w ∈ (flamessim m).windows) {A : Word} {o : Nat} (hA : A.toNat = w.base.toNat + o)
    (ho : o < w.length) (hend : w.length < o + 4) : s.decodeAddress A = .ramOutOfRange w := by
  have hsize := h.regionSize_window hw
  have hfind := h.findWindow_eq_some hm hw ((w.covers_iff A).2 (by omega))
  refine State.decodeAddress_of_outOfRange hfind ((s.inRange_eq_false_iff _ _).2 ?_)
  rw [State.offset, hA, Nat.add_sub_cancel_left, hsize, Nat.mod_eq_of_lt ho]
  exact hend

/-- The two rows of the decode map for each FLAMESSIM window (30_encoding.md R84). -/
theorem State.Flamessim.decodesWindow {s : State} {m : AddressMap} (hm : m.Admissible) (h : s.Flamessim m)
    {w : Window} (hw : w ∈ (flamessim m).windows) : s.DecodesWindow w.base w.length w.region := by
  have hlen : 4 ≤ w.length := by
    rcases flamessim_window hw with ⟨-, hlen, -⟩ | ⟨-, hlen, -⟩ <;> rw [hlen] <;> decide
  refine fun A => ⟨fun hA => ?_, fun hA => ?_⟩
  · exact h.decodeAddress_window hm hw (by omega) (by omega)
  · exact h.decodeAddress_window_end hm hw (o := A.toNat - w.base.toNat) (by omega) (by omega) (by omega)

theorem covers_eq_false_of_outsideWindows {m : AddressMap} {A : Word} (hA : m.outsideWindows A) {w : Window}
    (hw : w ∈ (flamessim m).windows) : w.covers A = false := by
  obtain ⟨h1a, h1b, h2a, h2b⟩ := hA
  rw [Window.covers_eq_false_iff]
  rcases flamessim_window hw with ⟨hbase, hlen, -⟩ | ⟨hbase, hlen, -⟩ <;>
    rcases hbase with hbase | hbase <;> rw [hbase, hlen] <;> omega

theorem State.Flamessim.findWindow_eq_none {s : State} {m : AddressMap} (h : s.Flamessim m) {A : Word}
    (hA : ∀ w ∈ (flamessim m).windows, w.covers A = false) : s.findWindow A = none :=
  findWindowIn_none.2 (h.win ▸ hA)

theorem State.Flamessim.registers {s : State} {m : AddressMap} (h : s.Flamessim m) :
    s.reg.map IoRegister.desc = (flamessim m).registers :=
  congrArg BusConfig.registers h.configured

/-- Each FLAMESSIM register's address decodes to the register (30_encoding.md R84). -/
theorem State.Flamessim.decodeAddress_register {s : State} {m : AddressMap} (hm : m.Admissible) (h : s.Flamessim m)
    {i : Nat} {d : RegDesc} (hd : (flamessim m).registers[i]? = some d) : s.decodeAddress d.addr = .reg i := by
  have hvalid := flamessim_valid hm
  have hdistinct : (s.reg.map fun x => x.desc.addr).Nodup := by
    have := hvalid.registers_distinct
    rwa [← h.registers, List.map_map] at this
  have hnone : s.findWindow d.addr = none := h.findWindow_eq_none fun w hw =>
    (w.covers_eq_false_iff _).2 (hvalid.registers_outside d (List.mem_of_getElem? hd) w hw)
  obtain ⟨x, hx, rfl⟩ : ∃ x, s.reg[i]? = some x ∧ x.desc = d := by
    simpa only [← h.registers, List.getElem?_map, Option.map_eq_some_iff] using hd
  exact State.decodeAddress_of_findReg hnone (findRegIn_of_getElem? hdistinct hx)

/-- An address in no window and of no register decodes to nothing (30_encoding.md R84). -/
theorem State.Flamessim.decodeAddress_unmapped {s : State} {m : AddressMap} (h : s.Flamessim m) {A : Word}
    (hA : m.outsideWindows A) (hreg : ∀ d ∈ (flamessim m).registers, d.addr ≠ A) : s.decodeAddress A = .unmapped := by
  refine State.decodeAddress_of_none (h.findWindow_eq_none fun _ => covers_eq_false_of_outsideWindows hA)
    (findRegIn_none.2 ?_)
  rw [← h.registers] at hreg
  exact fun x hx => hreg x.desc (List.mem_map_of_mem hx)

/-! ### Operations out of their phase -/

/-- MAPWINDOW and DEFREG are refused once construction is over (30_encoding.md R85). -/
theorem exec_constructionOver {i : Instr} {s : State} (hi : i.phase = .construction) (hrun : s.phase = .run) :
    exec i s = .refused .constructionOver := by
  cases i with
  | read32 | write32 | connect => cases hi
  | mapwindow base length region => simp only [exec, execMapwindow, hrun]
  | defreg addr init onWrite onRead => simp only [exec, execDefreg, hrun]

/-- READ32, WRITE32 and CONNECT are refused before there is a bus (30_encoding.md R85). -/
theorem exec_noBus {i : Instr} {s : State} (hi : i.phase = .run) (hcon : s.phase = .construction) :
    exec i s = .refused .noBus := by
  cases i with
  | read32 A => simp only [exec, execRead32, hcon]
  | write32 A V => simp only [exec, execWrite32, hcon]
  | connect k c => simp only [exec, execConnect, hcon]
  | mapwindow | defreg => cases hi

theorem step_undecodable {s : State} {bytes : List Byte} {rest : List PortInput} {e : DecodeError}
    (hp : s.pending = .request bytes :: rest) (hd : decode bytes = .error e) :
    step s = .refused (.undecodable e) := by
  simp only [step, hp, perform, hd]

end Sys2Proof.Machine
end

section
/-! The statements of 30_encoding.md, settled. -/

namespace Sys2Proof.Machine

/-- Settles O50: the op code selects the operation's own decoder, which undoes the encoding of its operands. -/
theorem decodeOfEncodeIsTheOperation : Obligations.DecodeOfEncodeIsTheOperation := by
  intro i hwf
  cases i with
  | read32 addr =>
    change decodeRead32 (beEncode addr ++ beEncode 0) = _
    simp only [decodeRead32, decodeBus_beEncode]
  | write32 addr wdata =>
    change decodeWrite32 (beEncode addr ++ beEncode wdata) = _
    simp only [decodeWrite32, decodeBus_beEncode]
  | connect kind handle => exact decodeConnect_beEncode kind (of_decide_eq_true hwf)
  | mapwindow base length region =>
    obtain ⟨hlength, hregion⟩ := Bool.and_eq_true_iff.1 hwf
    exact decodeMapwindow_beEncode base (of_decide_eq_true hlength) (of_decide_eq_true hregion)
  | defreg addr init onWrite onRead => exact decodeDefreg_beEncode addr init onWrite onRead

/-- Settles O10: the rows of the four windows, the three registers, and the rest. -/
theorem flamessimDecodeMap : Obligations.FlamessimDecodeMap := by
  intro m s hm h
  refine ⟨h.decodesWindow hm (w := ⟨m.w1aBase, S1, 0⟩) ?_, h.decodesWindow hm (w := ⟨m.w1bBase, S1, 0⟩) ?_,
    h.decodesWindow hm (w := ⟨m.w2aBase, S2, 1⟩) ?_, h.decodesWindow hm (w := ⟨m.w2bBase, S2, 1⟩) ?_,
    h.decodeAddress_register hm (i := 0) rfl, h.decodeAddress_register hm (i := 1) rfl,
    h.decodeAddress_register hm (i := 2) rfl,
    fun A hA hbgcolor hinput haudiofreq => h.decodeAddress_unmapped hA ?_⟩
  case refine_5 => simp [flamessim, hbgcolor.symm, hinput.symm, haudiofreq.symm]
  all_goals simp [flamessim]

/-- Settles O31. -/
theorem outOfPhaseAndReservedAreRefused : Obligations.OutOfPhaseAndReservedAreRefused :=
  ⟨fun _ _ => exec_constructionOver, fun _ _ => exec_noBus,
    fun _ _ args _ hop hp => step_undecodable hp (decode_reserved args hop)⟩

/-- Settles O51: the decoder evaluates on each of the six requests. -/
theorem requestBytesNameTheirOperations : Obligations.RequestBytesNameTheirOperations :=
  ⟨rfl, rfl, rfl, rfl, rfl, rfl⟩

end Sys2Proof.Machine
end

section
/-! SUPPORT. The overlap of two ranges as a shared address, and what MAPWINDOW checks, over the region it names. -/

namespace Sys2Proof.Machine

/-! ### The overlap of two ranges -/

theorem Window.overlaps_eq_false_iff (w : Window) (base : Word) (length : Nat) :
    w.overlaps base length = false ↔
      base.toNat + length ≤ w.base.toNat ∨ w.base.toNat + w.length ≤ base.toNat := by
  rw [← Bool.not_eq_true, w.overlaps_iff]
  omega

/-- Of two overlapping ranges the higher base is a shared address, and a shared address lies above both bases and below
both ends. -/
theorem Window.overlaps_iff_exists_shared (w : Window) (base : Word) {length : Nat} (hw : w.length ≠ 0)
    (hlength : length ≠ 0) :
    w.overlaps base length = true ↔
      ∃ A : Nat, (w.base.toNat ≤ A ∧ A < w.base.toNat + w.length) ∧ base.toNat ≤ A ∧ A < base.toNat + length := by
  rw [w.overlaps_iff]
  constructor
  · exact fun hoverlap => ⟨max w.base.toNat base.toNat, by omega⟩
  · rintro ⟨A, ⟨hfrom, hto⟩, hfrom', hto'⟩
    exact ⟨hfrom.trans_lt hto', hfrom'.trans_lt hto⟩

/-! ### The checks of MAPWINDOW -/

theorem State.regionSize_of_getElem? {s : State} {r : Nat} {g : Region} (hg : s.regions[r]? = some g) :
    s.regionSize r = g.size := by
  simp only [State.regionSize, hg]

/-- MAPWINDOW accepts exactly a window onto an existing region that no condition of R100 rejects. -/
theorem State.windowOk_iff_exists_region (s : State) (base : Word) (length region : Nat) :
    s.windowOk base length region = true ↔
      ∃ g, s.regions[region]? = some g ∧
        (length ≠ 0 ∧ base.toNat + length ≤ 2 ^ 32 ∧
          (length = g.size ∨ ((∃ k, g.size = 2 ^ k) ∧ ∃ k, length = 2 ^ k))) ∧
        ∀ w ∈ s.win, w.region ≠ region →
          ¬ (w.base.toNat < base.toNat + length ∧ base.toNat < w.base.toNat + w.length) := by
  rw [State.windowOk, Bool.and_eq_true, Bool.and_eq_true, decide_eq_true_eq, windowFits_iff, s.windowClear_iff]
  constructor
  · rintro ⟨⟨hregion, hfits⟩, hclear⟩
    have hg := List.getElem?_eq_getElem hregion
    exact ⟨_, hg, State.regionSize_of_getElem? hg ▸ hfits, hclear⟩
  · rintro ⟨g, hg, hfits, hclear⟩
    exact ⟨⟨(List.getElem?_eq_some_iff.1 hg).1, State.regionSize_of_getElem? hg ▸ hfits⟩, hclear⟩

end Sys2Proof.Machine
end

section
/-! The statements of 40_address_space.md on overlap and MAPWINDOW, settled. -/

namespace Sys2Proof.Machine

/-- Settles O7: the formula is the definition, and the ends of touching ranges are not below each other's bases. -/
theorem overlapIsASharedAddress : Obligations.OverlapIsASharedAddress := by
  refine fun w base length => ⟨w.overlaps_iff base length, w.overlaps_iff_exists_shared base, fun htouch => ?_⟩
  exact (w.overlaps_eq_false_iff base length).2 (htouch.symm.imp Eq.le Eq.le)

/-- Settles O27: the hypotheses are MAPWINDOW's checks. -/
theorem mapwindowAppendsTheWindow : Obligations.MapwindowAppendsTheWindow := by
  intro s base length region g hcon hg hpos hend hsize hclear
  have hok : s.windowOk base length region = true :=
    (s.windowOk_iff_exists_region base length region).2 ⟨g, hg, ⟨hpos, hend, hsize⟩, hclear⟩
  rw [exec_mapwindow_construction base length region hcon, if_pos hok]
  rfl

/-- Settles O28: an accepted window has a region and meets each condition, so every cause contradicts one of them. -/
theorem mapwindowRaisesConfigurationError : Obligations.MapwindowRaisesConfigurationError := by
  intro s base length region hcon hcause
  rw [exec_mapwindow_construction base length region hcon, if_neg]
  intro hok
  obtain ⟨g, hg, ⟨hpos, hend, hsize⟩, hclear⟩ := (s.windowOk_iff_exists_region base length region).1 hok
  rcases hcause with hnone | ⟨g', hg', hcause⟩
  · cases hg.symm.trans hnone
  · obtain rfl : g = g' := Option.some.inj (hg.symm.trans hg')
    rcases hcause with hempty | hpast | ⟨hother, hpow⟩ | ⟨w, hw, hregion, hoverlap⟩
    · exact hpos hempty
    · exact hend.not_gt hpast
    · exact hsize.elim hother hpow
    · exact hclear w hw hregion hoverlap

end Sys2Proof.Machine
end

section
/-! SUPPORT. The register lookup under the invariant, what each handler does, and READ32, WRITE32
and DEFREG of a register as whole operations. -/

namespace Sys2Proof.Machine

/-! ### The register lookup -/

/-- Where no two registers share an address, the lookup finds exactly the register at the address
(41_register_file.md R110, R111). -/
theorem State.Inv.findReg_eq_some_iff {s : State} (hs : s.Inv) {A : Word} {i : Nat} :
    s.findReg A = some i ↔ ∃ x, s.reg[i]? = some x ∧ x.desc.addr = A := by
  refine ⟨findRegIn_some, ?_⟩
  rintro ⟨x, hx, rfl⟩
  exact findRegIn_of_getElem? (List.pairwise_map.2 hs.addresses_distinct) hx

/-- The register an address decodes to is at that address (41_register_file.md R111). -/
theorem State.addr_of_decodeAddress {s : State} {A : Word} {i : Nat} {x : IoRegister} (h : s.decodeAddress A = .reg i)
    (hx : s.reg[i]? = some x) : x.desc.addr = A := by
  obtain ⟨-, hfind⟩ := State.decodeAddress_reg h
  obtain ⟨y, hy, haddr⟩ := findRegIn_some hfind
  rwa [Option.some.inj (hx.symm.trans hy)]

theorem State.setShadow_eq_set {s : State} {i : Nat} {x : IoRegister} (hx : s.reg[i]? = some x) (V : Word) :
    s.setShadow i V = { s with reg := s.reg.set i { x with shadow := V } } := by
  rw [State.setShadow, List.modify_eq_set_getElem?, hx]
  rfl

/-! ### The handlers (41_register_file.md R114 to R118) -/

section Handlers
variable {s : State} {x : IoRegister} {h : Handle} {i : Nat}

/-- A register that does not reject writes stores the value, and its handler's events follow (41_register_file.md R113
to R116). -/
theorem State.writeRegister_stores (hx : s.reg[i]? = some x) (hstores : x.desc.onWrite ≠ .rejectLog) (V : Word) :
    s.writeRegister i x V =
      { s with reg := s.reg.set i { x with shadow := V }, trace := s.trace ++ handlerEvents s.conn x.desc V } := by
  rw [State.writeRegister, handlerEvents, State.setShadow_eq_set hx]
  cases hwrite : x.desc.onWrite with
  | none => simp
  | fwdDisplay => cases hconn : s.conn.display <;> simp [State.fwdDisplay, State.emit, hconn]
  | fwdAudio => cases hconn : s.conn.audio <;> simp [State.fwdAudio, State.emit, hconn]
  | rejectLog => exact absurd hwrite hstores

theorem State.writeRegister_rejects (hrejects : x.desc.onWrite = .rejectLog) (V : Word) :
    s.writeRegister i x V = s.rejectLog x.desc.addr := by
  simp only [State.writeRegister, hrejects]

theorem State.readRegister_none (hread : x.desc.onRead = .none) : s.readRegister x = (x.shadow, s) := by
  simp only [State.readRegister, hread]

theorem State.readRegister_pullInput_connected (hread : x.desc.onRead = .pullInput) (hconn : s.conn.input = some h) :
    s.readRegister x = (s.drawInput h, s.countPull.emit (.getButtonState h (s.drawInput h))) := by
  simp only [State.readRegister, hread, State.pullInput, hconn]

theorem State.readRegister_pullInput_unconnected (hread : x.desc.onRead = .pullInput) (hconn : s.conn.input = none) :
    s.readRegister x = (x.shadow, s) := by
  simp only [State.readRegister, hread, State.pullInput, hconn]

end Handlers

/-! ### READ32 and WRITE32 of a register -/

section Transactions
variable {s : State} {A : Word} {i : Nat} {x : IoRegister}

theorem State.busRead32_of_reg (h : s.decodeAddress A = .reg i) (hx : s.reg[i]? = some x) :
    s.busRead32 A = s.readRegister x := by
  obtain ⟨y, hy, -, hread⟩ := State.busRead32_reg h
  rwa [Option.some.inj (hx.symm.trans hy)]

theorem State.busWrite32_of_reg (h : s.decodeAddress A = .reg i) (hx : s.reg[i]? = some x) (V : Word) :
    s.busWrite32 A V = s.writeRegister i x V := by
  obtain ⟨y, hy, -, hwrite⟩ := State.busWrite32_reg (V := V) h
  rwa [Option.some.inj (hx.symm.trans hy)]

theorem exec_read32_reg (hrun : s.phase = .run) (h : s.decodeAddress A = .reg i) (hx : s.reg[i]? = some x) :
    exec (.read32 A) s = .next ((s.readRegister x).2.respond (some (s.readRegister x).1)) := by
  rw [exec_read32_run A hrun, State.busRead32_of_reg h hx]

/-- A READ32 that asks the input answers what is drawn, with one Pull event (41_register_file.md R118). -/
theorem exec_read32_pull {c : Handle} (hrun : s.phase = .run) (h : s.decodeAddress A = .reg i)
    (hx : s.reg[i]? = some x) (hread : x.desc.onRead = .pullInput) (hconn : s.conn.input = some c) :
    exec (.read32 A) s =
      .next ((s.countPull.emit (.getButtonState c (s.drawInput c))).respond (some (s.drawInput c))) := by
  rw [exec_read32_reg hrun h hx, State.readRegister_pullInput_connected hread hconn]

theorem exec_write32_reg (V : Word) (hrun : s.phase = .run) (h : s.decodeAddress A = .reg i)
    (hx : s.reg[i]? = some x) : exec (.write32 A V) s = .next ((s.writeRegister i x V).respond none) := by
  rw [exec_write32_run A V hrun, State.busWrite32_of_reg h hx]

/-- A WRITE32 of a register that does not reject writes: the store, the handler's events, and nothing else. -/
theorem exec_write32_stores (V : Word) (hrun : s.phase = .run) (h : s.decodeAddress A = .reg i)
    (hx : s.reg[i]? = some x) (hstores : x.desc.onWrite ≠ .rejectLog) :
    exec (.write32 A V) s =
      .next { s with reg := s.reg.set i { x with shadow := V }, rdata := none,
                     trace := s.trace ++ handlerEvents s.conn x.desc V } := by
  rw [exec_write32_reg V hrun h hx, State.writeRegister_stores hx hstores]
  rfl

end Transactions

/-! ### DEFREG -/

theorem exec_defreg_of_free {s : State} {addr : Word} (init : Word) (ow : WriteHandler) (ord : ReadHandler)
    (hcon : s.phase = .construction) (hfree : s.findReg addr = none) :
    exec (.defreg addr init ow ord) s = .next ((s.addRegister ⟨addr, init, ow, ord⟩).respond none) := by
  simp only [exec, execDefreg, hcon, hfree]

theorem exec_defreg_of_taken {s : State} {addr : Word} {i : Nat} (init : Word) (ow : WriteHandler) (ord : ReadHandler)
    (hcon : s.phase = .construction) (htaken : s.findReg addr = some i) :
    exec (.defreg addr init ow ord) s = .fault .configurationError := by
  simp only [exec, execDefreg, hcon, htaken]

end Sys2Proof.Machine
end

section
/-! SUPPORT. When the input is asked: by a READ32 of a pulling register with an input connected, and never else. -/

namespace Sys2Proof.Machine

/-- The operation is a READ32 of a register that pulls the input, and an input is connected (41_register_file.md
R118). -/
def State.AsksInput (s : State) (i : Instr) : Prop :=
  ∃ A k x h, i = .read32 A ∧ s.decodeAddress A = .reg k ∧ s.reg[k]? = some x ∧ x.desc.onRead = .pullInput ∧
    s.conn.input = some h

/-- No pull was made between the states, and no fixed answer was used up. -/
def State.SamePulls (s t : State) : Prop := t.pulls = s.pulls ∧ t.answers = s.answers

theorem State.SamePulls.refl (s : State) : s.SamePulls s := ⟨rfl, rfl⟩

theorem State.SamePulls.emit (s : State) (e : Event) : s.SamePulls (s.emit e) := ⟨rfl, rfl⟩

theorem State.SamePulls.writeRegister {s : State} {i : Nat} {x : IoRegister} (hx : s.reg[i]? = some x) (V : Word) :
    s.SamePulls (s.writeRegister i x V) := by
  by_cases hrejects : x.desc.onWrite = .rejectLog
  · exact State.writeRegister_rejects (s := s) hrejects V ▸ .emit s _
  · exact State.writeRegister_stores hx hrejects V ▸ ⟨rfl, rfl⟩

theorem State.SamePulls.busWrite32 (s : State) (A V : Word) : s.SamePulls (s.busWrite32 A V) := by
  cases h : s.decodeAddress A with
  | ram r off => exact State.busWrite32_ram h ▸ ⟨rfl, rfl⟩
  | ramOutOfRange w => exact State.busWrite32_ramOutOfRange h ▸ .emit s _
  | reg i =>
    obtain ⟨x, hx, -, hwrite⟩ := State.busWrite32_reg (V := V) h
    exact hwrite ▸ .writeRegister hx V
  | unmapped => exact State.busWrite32_unmapped h ▸ .emit s _

/-- A read of a register makes no pull, unless the register pulls and an input is connected. -/
theorem State.SamePulls.readRegister {s : State} {x : IoRegister}
    (hquiet : ∀ h, x.desc.onRead = .pullInput → s.conn.input ≠ some h) : s.SamePulls (s.readRegister x).2 := by
  cases hread : x.desc.onRead with
  | none => exact State.readRegister_none (s := s) hread ▸ .refl s
  | pullInput =>
    have hconn : s.conn.input = none := Option.eq_none_iff_forall_ne_some.2 fun h => hquiet h hread
    exact State.readRegister_pullInput_unconnected hread hconn ▸ .refl s

theorem State.SamePulls.busRead32 {s : State} {A : Word} (hquiet : ¬ s.AsksInput (.read32 A)) :
    s.SamePulls (s.busRead32 A).2 := by
  cases h : s.decodeAddress A with
  | ram r off => exact State.busRead32_ram h ▸ .refl s
  | ramOutOfRange w => exact State.busRead32_ramOutOfRange h ▸ .emit s _
  | reg k =>
    obtain ⟨x, hx, -, hread⟩ := State.busRead32_reg h
    rw [hread]
    exact .readRegister fun c hpull hconn => hquiet ⟨A, k, x, c, rfl, h, hx, hpull, hconn⟩
  | unmapped => exact State.busRead32_unmapped h ▸ .emit s _

/-- Of the five operations only READ32 can ask the input. -/
theorem exec_samePulls {i : Instr} {s t : State} (hquiet : ¬ s.AsksInput i) (h : exec i s = .next t) :
    s.SamePulls t := by
  cases i with
  | read32 A =>
    obtain ⟨-, rfl⟩ := execRead32_next h
    exact .busRead32 hquiet
  | write32 A V =>
    obtain ⟨-, rfl⟩ := execWrite32_next h
    exact .busWrite32 s A V
  | connect k c =>
    obtain ⟨-, rfl⟩ := execConnect_next h
    exact ⟨rfl, rfl⟩
  | mapwindow base length region =>
    obtain ⟨-, -, rfl⟩ := execMapwindow_next h
    exact ⟨rfl, rfl⟩
  | defreg addr init onWrite onRead =>
    obtain ⟨-, -, rfl⟩ := execDefreg_next h
    exact ⟨rfl, rfl⟩

/-- An operation that asks the input makes one pull. -/
theorem State.AsksInput.pulls {i : Instr} {s t : State} (hask : s.AsksInput i) (h : exec i s = .next t) :
    t.pulls = s.pulls + 1 := by
  obtain ⟨A, k, x, c, rfl, hreg, hx, hread, hconn⟩ := hask
  obtain ⟨hrun, -⟩ := execRead32_next h
  cases (exec_read32_pull hrun hreg hx hread hconn).symm.trans h
  rfl

end Sys2Proof.Machine
end

section
/-! SUPPORT. The calls of the display that a script sends out: one operation's calls, then all of them by induction. -/

namespace Sys2Proof.Machine

/-- The calls of the display in the trace, oldest first. -/
def State.displayTrace (s : State) : List Event := s.trace.filter Event.isDisplayCall

/-! ### One transaction -/

/-- Of the handlers only FwdDisplay calls the display, once if one is connected (41_register_file.md R115). -/
theorem filter_handlerEvents (c : Connections) (d : RegDesc) (V : Word) :
    (handlerEvents c d V).filter Event.isDisplayCall =
      if d.onWrite = .fwdDisplay then (c.display.map fun h => .setBackgroundColor h V).toList else [] := by
  unfold handlerEvents
  cases d.onWrite with
  | none | rejectLog => rfl
  | fwdDisplay => cases c.display <;> rfl
  | fwdAudio => cases c.audio <;> rfl

theorem State.displayTrace_recover (s : State) (kind : DiagKind) (op : Access) (A : Word) :
    (s.recover kind op A).displayTrace = s.displayTrace := by
  simp [State.displayTrace, Event.isDisplayCall]

theorem State.displayTrace_writeRegister (s : State) (i : Nat) (x : IoRegister) (V : Word) :
    (s.writeRegister i x V).displayTrace = s.displayTrace ++
      if x.desc.onWrite = .fwdDisplay then (s.conn.display.map fun h => .setBackgroundColor h V).toList else [] := by
  rw [State.displayTrace, s.writeRegister_trace, List.filter_append, filter_handlerEvents, State.displayTrace]

theorem State.displayTrace_readRegister (s : State) (x : IoRegister) :
    (s.readRegister x).2.displayTrace = s.displayTrace := by
  unfold State.readRegister State.pullInput
  split
  · rfl
  · split
    · simp [State.displayTrace, Event.isDisplayCall]
    · rfl

theorem State.displayTrace_busRead32 (s : State) (A : Word) : (s.busRead32 A).2.displayTrace = s.displayTrace := by
  cases h : s.decodeAddress A with
  | ram r off => rw [State.busRead32_ram h]
  | ramOutOfRange w => rw [State.busRead32_ramOutOfRange h, State.displayTrace_recover]
  | reg i =>
    obtain ⟨x, -, -, hread⟩ := State.busRead32_reg h
    rw [hread, State.displayTrace_readRegister]
  | unmapped => rw [State.busRead32_unmapped h, State.displayTrace_recover]

theorem displayCall_write32 (colour A V : Word) (c : Option Handle) :
    displayCall colour c (.write32 A V) =
      if A = colour then (c.map fun h => .setBackgroundColor h V).toList else [] := by
  cases c with
  | none => exact (ite_self _).symm
  | some h => rfl

/-! ### The FLAMESSIM bus -/

/-- The background-colour register is the one FLAMESSIM register that forwards to the display (42_bus.md R125). -/
theorem flamessim_fwdDisplay_iff {m : AddressMap} (hm : m.Admissible) {d : RegDesc}
    (hd : d ∈ (flamessim m).registers) : d.onWrite = .fwdDisplay ↔ d.addr = m.bgcolorAddr := by
  obtain ⟨-, -, -, ⟨hinput, haudio, -⟩, -⟩ := hm
  simp only [flamessim, List.mem_cons, List.not_mem_nil, or_false] at hd
  rcases hd with rfl | rfl | rfl
  · exact iff_of_true rfl rfl
  · exact iff_of_false nofun hinput.symm
  · exact iff_of_false nofun haudio.symm

/-- A write calls the display exactly at the address of the background-colour register, whose target no other address
has (41_register_file.md R113, R115). -/
theorem State.Flamessim.displayTrace_busWrite32 {s : State} {m : AddressMap} (hm : m.Admissible) (h : s.Flamessim m)
    (A V : Word) :
    (s.busWrite32 A V).displayTrace = s.displayTrace ++ displayCall m.bgcolorAddr s.conn.display (.write32 A V) := by
  have hcolour : s.decodeAddress m.bgcolorAddr = .reg 0 := h.decodeAddress_register hm (i := 0) rfl
  have hother (hA : s.decodeAddress A ≠ .reg 0) :
      displayCall m.bgcolorAddr s.conn.display (.write32 A V) = [] := by
    rw [displayCall_write32, if_neg fun heq : A = _ => hA (heq ▸ hcolour)]
  cases htarget : s.decodeAddress A with
  | ram r off => rw [State.busWrite32_ram htarget, hother (htarget ▸ nofun), List.append_nil]; rfl
  | ramOutOfRange w =>
    rw [State.busWrite32_ramOutOfRange htarget, hother (htarget ▸ nofun), List.append_nil, State.displayTrace_recover]
  | reg i =>
    obtain ⟨x, hx, rfl, hwrite⟩ := State.busWrite32_reg (V := V) htarget
    have hd : x.desc ∈ (flamessim m).registers := h.registers ▸ List.mem_map_of_mem (List.mem_of_getElem? hx)
    simp only [hwrite, State.displayTrace_writeRegister, displayCall_write32, flamessim_fwdDisplay_iff hm hd]
  | unmapped =>
    rw [State.busWrite32_unmapped htarget, hother (htarget ▸ nofun), List.append_nil, State.displayTrace_recover]

theorem Connections.set_display (c : Connections) (k : PeripheralKind) (h : Handle) :
    (c.set k h).display = displayAfter c.display (.connect k h) := by
  cases k <;> rfl

/-- One operation on a FLAMESSIM bus: its calls of the display, and the display connected after it. -/
theorem State.Flamessim.exec_display {s t : State} {m : AddressMap} (hm : m.Admissible) (h : s.Flamessim m)
    {i : Instr} (hexec : exec i s = .next t) :
    t.displayTrace = s.displayTrace ++ displayCall m.bgcolorAddr s.conn.display i ∧
      t.conn.display = displayAfter s.conn.display i := by
  cases i with
  | read32 A =>
    obtain ⟨-, rfl⟩ := execRead32_next hexec
    exact ⟨(s.displayTrace_busRead32 A).trans (List.append_nil _).symm,
      congrArg Connections.display (State.SameBlock.busRead32 s A).conn⟩
  | write32 A V =>
    obtain ⟨-, rfl⟩ := execWrite32_next hexec
    exact ⟨h.displayTrace_busWrite32 hm A V, congrArg Connections.display (s.busWrite32_conn A V)⟩
  | connect k c =>
    obtain ⟨-, rfl⟩ := execConnect_next hexec
    exact ⟨(List.append_nil _).symm, s.conn.set_display k c⟩
  | mapwindow | defreg => cases (exec_constructionOver rfl h.running).symm.trans hexec

/-- A running FLAMESSIM bus stays one. -/
theorem State.Flamessim.exec {s t : State} {m : AddressMap} (h : s.Flamessim m) {i : Instr}
    (hexec : Machine.exec i s = .next t) : t.Flamessim m := by
  obtain ⟨hconf, hrun⟩ := exec_keeps_configuration h.running hexec
  exact ⟨hrun, hconf.trans h.configured⟩

theorem State.Flamessim.issue_displayTrace {m : AddressMap} (hm : m.Admissible) {ops : List Instr} {s t : State}
    (h : s.Flamessim m) (hissue : issue ops s = .next t) :
    t.displayTrace = s.displayTrace ++ displayCalls m.bgcolorAddr s.conn.display ops := by
  induction ops generalizing s with
  | nil =>
    obtain rfl : s = t := by simpa [issue] using hissue
    exact (List.append_nil _).symm
  | cons i rest ih =>
    obtain ⟨u, hfirst, hrest⟩ := andThen_next hissue
    obtain ⟨htrace, hdisplay⟩ := h.exec_display hm hfirst
    rw [ih (h.exec hfirst) hrest, htrace, hdisplay, displayCalls, List.append_assoc]

end Sys2Proof.Machine
end

section
/-! The statements of 41_register_file.md, settled. -/

namespace Sys2Proof.Machine

/-- Settles O8: the lookup is exact under the invariant, and a lookup has one answer. -/
theorem registerMatchIsExact : Obligations.RegisterMatchIsExact := by
  refine fun s A hs => ⟨fun _ => hs.findReg_eq_some_iff, findRegIn_none, fun i j x y hx hy hxA hyA => ?_⟩
  have hi : s.findReg A = some i := hs.findReg_eq_some_iff.2 ⟨x, hx, hxA⟩
  have hj : s.findReg A = some j := hs.findReg_eq_some_iff.2 ⟨y, hy, hyA⟩
  exact Option.some.inj (hi.symm.trans hj)

/-- Settles O13. -/
theorem readOfRegisterAnswersItsShadow : Obligations.ReadOfRegisterAnswersItsShadow := by
  intro s A i x hrun hreg hx hread
  rw [exec_read32_reg hrun hreg hx, State.readRegister_none hread]
  rfl

/-- Settles O14: what is drawn is the answer fixed in advance, or some word; with no input connected nothing is
drawn. -/
theorem readOfInputPullsTheAnswer : Obligations.ReadOfInputPullsTheAnswer := by
  intro s A i x hrun hreg hx hread
  refine ⟨fun h v later hconn => ?_, fun h hconn => ⟨s.drawInput h, ?_⟩, fun hconn => ?_⟩
  · exact exec_read32_pull (s := { s with answers := v :: later }) hrun hreg hx hread hconn
  · exact exec_read32_pull hrun hreg hx hread hconn
  · rw [exec_read32_reg hrun hreg hx, State.readRegister_pullInput_unconnected hread hconn]
    rfl

/-- Settles O18: a register without a write handler has no event to send out. -/
theorem writeToPlainRegisterStores : Obligations.WriteToPlainRegisterStores := by
  intro s A V i x hrun hreg hx hwrite
  have hevents : handlerEvents s.conn x.desc V = [] := by simp only [handlerEvents, hwrite]
  rw [exec_write32_stores V hrun hreg hx (hwrite ▸ nofun), hevents, List.append_nil]

/-- Settles O19: the handler's event is the call of the display connected at that time. -/
theorem colourWriteCallsTheDisplay : Obligations.ColourWriteCallsTheDisplay := by
  intro s A V i x hrun hreg hx hwrite
  rw [exec_write32_stores V hrun hreg hx (hwrite ▸ nofun)]
  refine ⟨fun h hconn => ?_, fun hconn => ?_⟩ <;> simp [handlerEvents, hwrite, hconn]

/-- Settles O20: the handler's event is the call of the audio collaborator connected at that time, with the word
converted. -/
theorem toneWriteCallsTheAudio : Obligations.ToneWriteCallsTheAudio := by
  intro s A V i x hrun hreg hx hwrite
  rw [exec_write32_stores V hrun hreg hx (hwrite ▸ nofun)]
  refine ⟨fun h hconn => ?_, fun hconn => ?_⟩ <;> simp [handlerEvents, hwrite, hconn]

/-- Settles O21: the address the event names is the one the lookup matched. -/
theorem ignoredWriteIsLogged : Obligations.IgnoredWriteIsLogged := by
  intro s A V i x hrun hreg hx hwrite
  have haddr := State.addr_of_decodeAddress hreg hx
  refine ⟨haddr, ?_⟩
  rw [exec_write32_reg V hrun hreg hx, State.writeRegister_rejects hwrite, haddr]
  rfl

/-- Settles O29: DEFREG decides by the lookup, which finds nothing exactly at a new address. -/
theorem defregAppendsTheRegister : Obligations.DefregAppendsTheRegister := by
  refine fun s addr init ow ord hcon => ⟨fun hnew => ?_, fun ⟨x, hx, haddr⟩ => ?_⟩
  · exact exec_defreg_of_free init ow ord hcon (findRegIn_none.2 hnew)
  · have htaken : s.findReg addr ≠ none := fun hfree => findRegIn_none.1 hfree x hx haddr
    obtain ⟨i, hi⟩ := Option.ne_none_iff_exists'.1 htaken
    exact exec_defreg_of_taken init ow ord hcon hi

/-- Settles O43, by induction on the script: each operation's calls are its own, and it leaves the display that the next
one calls. -/
theorem displayCallsAreTheColourWrites : Obligations.DisplayCallsAreTheColourWrites :=
  fun _ _ _ _ hm h hissue => h.issue_displayTrace hm hissue

/-- Settles O46: an operation either asks the input, and pulls once, or it does not, and no pull is made. -/
theorem pulledOnlyByInputReads : Obligations.PulledOnlyByInputReads := by
  intro i s t h
  by_cases hask : s.AsksInput i
  · exact Or.inl ⟨hask.pulls h, hask⟩
  · obtain ⟨hpulls, hanswers⟩ := exec_samePulls hask h
    exact Or.inr ⟨hpulls, hanswers, fun A k x c hi hreg hx hread hconn => hask ⟨A, k, x, c, hi, hreg, hx, hread, hconn⟩⟩

end Sys2Proof.Machine
end

section
/-! SUPPORT. What an operation stores depends on the regions, the tables and the phase alone; a transaction at an
address that names no byte and no register sends out a Diag event and stores nothing; what the decoder's order and
CONNECT rest on. -/

namespace Sys2Proof.Machine

/-! ### Storage -/

/-- The regions, the tables with the shadows, and the phase are the same: the block's state but for its connections. -/
structure State.SameStorage (s t : State) : Prop where
  regions : t.regions = s.regions
  win : t.win = s.win
  reg : t.reg = s.reg
  phase : t.phase = s.phase

theorem State.SameStorage.symm {s t : State} (h : s.SameStorage t) : t.SameStorage s :=
  ⟨h.regions.symm, h.win.symm, h.reg.symm, h.phase.symm⟩

theorem State.SameStorage.trans {s t u : State} (h : s.SameStorage t) (h' : t.SameStorage u) : s.SameStorage u :=
  ⟨h'.regions.trans h.regions, h'.win.trans h.win, h'.reg.trans h.reg, h'.phase.trans h.phase⟩

theorem State.SameBlock.sameStorage {s t : State} (h : s.SameBlock t) : s.SameStorage t :=
  ⟨h.regions, h.win, h.reg, h.phase⟩

/-- Two changes that leave the storage alone keep two states alike. -/
theorem State.SameStorage.of_sameBlock {s t s' t' : State} (h : s.SameStorage s') (hs : s.SameBlock t)
    (hs' : s'.SameBlock t') : t.SameStorage t' :=
  (hs.sameStorage.symm.trans h).trans hs'.sameStorage

theorem State.SameStorage.configuration {s t : State} (h : s.SameStorage t) : t.configuration = s.configuration := by
  simp only [State.configuration, h.regions, h.win, h.reg]

theorem State.SameStorage.writeRam {s t : State} (h : s.SameStorage t) (r off : Nat) (V : Word) :
    (s.writeRam r off V).SameStorage (t.writeRam r off V) where
  regions := by simp only [State.writeRam_regions, h.regions]
  win := h.win
  reg := h.reg
  phase := h.phase

theorem State.SameStorage.setShadow {s t : State} (h : s.SameStorage t) (i : Nat) (V : Word) :
    (s.setShadow i V).SameStorage (t.setShadow i V) where
  regions := h.regions
  win := h.win
  reg := by simp only [State.setShadow_reg, h.reg]
  phase := h.phase

theorem State.SameStorage.writeRegister {s t : State} (h : s.SameStorage t) (i : Nat) (x : IoRegister) (V : Word) :
    (s.writeRegister i x V).SameStorage (t.writeRegister i x V) := by
  rcases s.writeRegister_effect i x V with ⟨hstores, hs⟩ | ⟨hrejects, hs⟩ <;>
    rcases t.writeRegister_effect i x V with ⟨hstores', ht⟩ | ⟨hrejects', ht⟩
  · exact (h.setShadow i V).of_sameBlock hs ht
  · exact absurd hrejects' hstores
  · exact absurd hrejects hstores'
  · exact h.of_sameBlock hs ht

/-- A bus write stores the same over the same storage, whatever is connected (42_bus.md R126). -/
theorem State.SameStorage.busWrite32 {s t : State} (h : s.SameStorage t) (A V : Word) :
    (s.busWrite32 A V).SameStorage (t.busWrite32 A V) := by
  have htarget : t.decodeAddress A = s.decodeAddress A := State.decodeAddress_congr h.configuration A
  cases hA : s.decodeAddress A with
  | ram r off =>
    rw [State.busWrite32_ram hA, State.busWrite32_ram (htarget.trans hA)]
    exact h.writeRam r off V
  | ramOutOfRange w =>
    rw [State.busWrite32_ramOutOfRange hA, State.busWrite32_ramOutOfRange (htarget.trans hA)]
    exact h.of_sameBlock (.recover s _ _ A) (.recover t _ _ A)
  | reg i =>
    obtain ⟨x, hx, -, hwrite⟩ := State.busWrite32_reg (V := V) hA
    rw [hwrite, State.busWrite32_of_reg (htarget.trans hA) (h.reg ▸ hx)]
    exact h.writeRegister i x V
  | unmapped =>
    rw [State.busWrite32_unmapped hA, State.busWrite32_unmapped (htarget.trans hA)]
    exact h.of_sameBlock (.recover s _ _ A) (.recover t _ _ A)

theorem State.SameStorage.windowOk {s t : State} (h : s.SameStorage t) (base : Word) (length region : Nat) :
    t.windowOk base length region = s.windowOk base length region := by
  simp only [State.windowOk, State.windowClear, State.regionSize, h.regions, h.win]

theorem State.SameStorage.findReg {s t : State} (h : s.SameStorage t) (A : Word) : t.findReg A = s.findReg A := by
  simp only [State.findReg, h.reg]

/-- An operation that completes over one state completes over every state of the same storage, and leaves the same
storage. -/
theorem State.SameStorage.exec {i : Instr} {s s' t : State} (h : s.SameStorage s') (hexec : exec i s = .next t) :
    ∃ t', Machine.exec i s' = .next t' ∧ t.SameStorage t' := by
  cases i with
  | read32 A =>
    obtain ⟨hrun, rfl⟩ := execRead32_next hexec
    have hsame := h.of_sameBlock (.busRead32 s A) (.busRead32 s' A)
    exact ⟨_, exec_read32_run A (h.phase.trans hrun), hsame.of_sameBlock (.respond _ _) (.respond _ _)⟩
  | write32 A V =>
    obtain ⟨hrun, rfl⟩ := execWrite32_next hexec
    exact ⟨_, exec_write32_run A V (h.phase.trans hrun), (h.busWrite32 A V).of_sameBlock (.respond _ _) (.respond _ _)⟩
  | connect k c =>
    obtain ⟨hrun, rfl⟩ := execConnect_next hexec
    exact ⟨_, exec_connect_run k c (h.phase.trans hrun), ⟨h.regions, h.win, h.reg, h.phase⟩⟩
  | mapwindow base length region =>
    obtain ⟨hcon, hok, rfl⟩ := execMapwindow_next hexec
    rw [exec_mapwindow_construction base length region (h.phase.trans hcon), h.windowOk, if_pos hok]
    exact ⟨_, rfl, ⟨h.regions, congrArg (· ++ [_]) h.win, h.reg, h.phase⟩⟩
  | defreg addr init onWrite onRead =>
    obtain ⟨hcon, hfree, rfl⟩ := execDefreg_next hexec
    exact ⟨_, exec_defreg_of_free init onWrite onRead (h.phase.trans hcon) ((h.findReg addr).trans hfree),
      ⟨h.regions, h.win, congrArg (· ++ [_]) h.reg, h.phase⟩⟩

theorem State.pending_readRegister (s : State) (x : IoRegister) : (s.readRegister x).2.pending = s.pending := by
  unfold State.readRegister State.pullInput
  split
  · rfl
  · split <;> rfl

theorem State.pending_busRead32 (s : State) (A : Word) : (s.busRead32 A).2.pending = s.pending := by
  cases h : s.decodeAddress A with
  | ram r off => rw [State.busRead32_ram h]
  | ramOutOfRange w => rw [State.busRead32_ramOutOfRange h, State.recover_pending]
  | reg i =>
    obtain ⟨x, -, -, hread⟩ := State.busRead32_reg h
    rw [hread, State.pending_readRegister]
  | unmapped => rw [State.busRead32_unmapped h, State.recover_pending]

/-! ### Failing transactions -/

section BadAddress
variable {s : State} {A : Word}

theorem exec_read32_ramOutOfRange {w : Window} (hrun : s.phase = .run) (h : s.decodeAddress A = .ramOutOfRange w) :
    exec (.read32 A) s = .next { s with rdata := some 0, trace := s.trace ++ [.diag .outOfRange .read A] } := by
  rw [exec_read32_run A hrun, State.busRead32_ramOutOfRange h]
  rfl

theorem exec_read32_unmapped (hrun : s.phase = .run) (h : s.decodeAddress A = .unmapped) :
    exec (.read32 A) s = .next { s with rdata := some 0, trace := s.trace ++ [.diag .unhandled .read A] } := by
  rw [exec_read32_run A hrun, State.busRead32_unmapped h]
  rfl

theorem exec_write32_ramOutOfRange {w : Window} (V : Word) (hrun : s.phase = .run)
    (h : s.decodeAddress A = .ramOutOfRange w) :
    exec (.write32 A V) s = .next { s with rdata := none, trace := s.trace ++ [.diag .outOfRange .write A] } := by
  rw [exec_write32_run A V hrun, State.busWrite32_ramOutOfRange h]
  rfl

theorem exec_write32_unmapped (V : Word) (hrun : s.phase = .run) (h : s.decodeAddress A = .unmapped) :
    exec (.write32 A V) s = .next { s with rdata := none, trace := s.trace ++ [.diag .unhandled .write A] } := by
  rw [exec_write32_run A V hrun, State.busWrite32_unmapped h]
  rfl

end BadAddress

/-! ### The order of the decoder -/

/-- On a running bus no register's address lies in a window: the partition check of CONSTRUCT (42_bus.md R123, R124). -/
theorem State.Inv.findWindow_eq_none {s : State} (hs : s.Inv) (hrun : s.phase = .run) {A : Word} {i : Nat}
    (hreg : s.findReg A = some i) : s.findWindow A = none := by
  obtain ⟨x, hx, rfl⟩ := findRegIn_some hreg
  have houtside := s.partitionOk_iff.1 (hs.partition hrun) x (List.mem_of_getElem? hx)
  exact findWindowIn_none.2 fun w hw => (w.covers_eq_false_iff _).2 (houtside w hw)

/-! ### Connections -/

theorem Connections.get_set_same (c : Connections) (k : PeripheralKind) (h : Handle) : (c.set k h).get k = some h := by
  cases k <;> rfl

theorem Connections.get_set_other (c : Connections) {k k' : PeripheralKind} (h : Handle) (hk : k' ≠ k) :
    (c.set k h).get k' = c.get k' := by
  cases k <;> cases k' <;> simp [Connections.set, Connections.get] at hk ⊢

theorem Connections.set_set (c : Connections) (k : PeripheralKind) (h h' : Handle) :
    (c.set k h).set k h' = c.set k h' := by
  cases k <;> rfl

end Sys2Proof.Machine
end

section
/-! SUPPORT. CONSTRUCT as one decision. Each part of it completes exactly under a condition on the configuration record,
and the conditions together are `BusConfig.Valid`. -/

namespace Sys2Proof.Machine

/-! ### Sequencing -/

theorem andThen_next_left (s : State) (f : State → Host.Outcome State Fault Refusal) : andThen (.next s) f = f s := rfl

theorem andThen_next_right (o : Host.Outcome State Fault Refusal) : andThen o .next = o := by
  cases o <;> rfl

theorem andThen_assoc (o : Host.Outcome State Fault Refusal) (f g : State → Host.Outcome State Fault Refusal) :
    andThen (andThen o f) g = andThen o fun s => andThen (f s) g := by
  cases o <;> rfl

/-! ### Outcomes that a condition decides -/

/-- The outcome is the next state `t` where `P` holds, and ConfigurationError where it does not. -/
structure DecidedBy (P : Prop) (t : State) (o : Host.Outcome State Fault Refusal) : Prop where
  completes : P → o = .next t
  faults : ¬ P → o = .fault .configurationError

theorem DecidedBy.congr {P Q : Prop} {t : State} {o : Host.Outcome State Fault Refusal} (h : DecidedBy P t o)
    (hPQ : P ↔ Q) : DecidedBy Q t o := propext hPQ ▸ h

/-- A second part runs where the first completes, and not at all where it faults. -/
theorem DecidedBy.andThen {P Q : Prop} {s t : State} {o : Host.Outcome State Fault Refusal}
    {f : State → Host.Outcome State Fault Refusal} (ho : DecidedBy P s o) (hf : DecidedBy Q t (f s)) :
    DecidedBy (P ∧ Q) t (andThen o f) where
  completes := fun ⟨hP, hQ⟩ => by rw [ho.completes hP]; exact hf.completes hQ
  faults hPQ := by
    by_cases hP : P
    · rw [ho.completes hP]
      exact hf.faults fun hQ => hPQ ⟨hP, hQ⟩
    · rw [ho.faults hP]
      rfl

/-! ### The parts of CONSTRUCT -/

/-- The bus while it is constructed, with the regions, windows and registers listed so far. -/
def State.listing (s : State) (cfg : BusConfig) : State :=
  { s with regions := cfg.regions.map Region.zeroed, win := cfg.windows, reg := cfg.registers.map RegDesc.fresh,
           phase := .construction, rdata := none }

theorem State.freshTables_eq_listing (s : State) (sizes : List Nat) :
    s.freshTables sizes = s.listing ⟨sizes, [], []⟩ := rfl

theorem State.constructed_eq_enterRun (cfg : BusConfig) :
    State.constructed cfg = (State.blank.listing cfg).enterRun := rfl

theorem sizeOk_iff (n : Nat) : sizeOk n = true ↔ 1 ≤ n ∧ n ≤ 2 ^ 32 := by
  simp [sizeOk]

theorem execBeginConstruct_eq_listing (s : State) {sizes : List Nat} (hsizes : ∀ n ∈ sizes, 1 ≤ n ∧ n ≤ 2 ^ 32) :
    execBeginConstruct sizes s = .next (s.listing ⟨sizes, [], []⟩) := by
  have hall : sizes.all sizeOk = true := List.all_eq_true.2 fun n hn => (sizeOk_iff n).2 (hsizes n hn)
  rw [execBeginConstruct, if_pos hall, State.freshTables_eq_listing]

/-- A window's region exists and the window meets R100 (a), (b) and (c). -/
def Window.FitsIn (sizes : List Nat) (w : Window) : Prop :=
  ∃ S, sizes[w.region]? = some S ∧ w.length ≠ 0 ∧ w.base.toNat + w.length ≤ 2 ^ 32 ∧
    (w.length = S ∨ ((∃ k, S = 2 ^ k) ∧ ∃ k, w.length = 2 ^ k))

section Parts
variable (s : State) (sizes : List Nat) (ws : List Window) (ds : List RegDesc)

theorem State.listing_windowOk_iff (w : Window) :
    (s.listing ⟨sizes, ws, ds⟩).windowOk w.base w.length w.region = true ↔
      w.FitsIn sizes ∧ ∀ v ∈ ws, v.Compatible w := by
  rw [State.windowOk_iff]
  refine and_congr_left fun _ => ?_
  simp only [State.WindowOk, windowFits_iff, Window.FitsIn, State.listing, List.length_map, State.regionSize,
    List.getElem?_map]
  cases hS : sizes[w.region]? with
  | none => simpa using fun hlt => absurd hS (by simp [hlt])
  | some S => simpa using fun _ _ _ => (List.getElem?_eq_some_iff.1 hS).1

theorem State.listing_findReg_eq_none_iff (A : Word) :
    (s.listing ⟨sizes, ws, ds⟩).findReg A = none ↔ ∀ d ∈ ds, d.addr ≠ A := by
  rw [State.findReg, findRegIn_none]
  exact List.forall_mem_map

theorem execMapwindow_listing (w : Window) :
    DecidedBy (w.FitsIn sizes ∧ ∀ v ∈ ws, v.Compatible w) (s.listing ⟨sizes, ws ++ [w], ds⟩)
      (execMapwindow w.base w.length w.region (s.listing ⟨sizes, ws, ds⟩)) := by
  rw [← s.listing_windowOk_iff sizes ws ds w]
  exact ⟨fun hok => if_pos hok, fun hbad => if_neg hbad⟩

theorem execDefreg_listing (d : RegDesc) :
    DecidedBy (∀ e ∈ ds, e.addr ≠ d.addr) (s.listing ⟨sizes, ws, ds ++ [d]⟩)
      (execDefreg d.addr d.init d.onWrite d.onRead (s.listing ⟨sizes, ws, ds⟩)) := by
  rw [← s.listing_findReg_eq_none_iff sizes ws ds d.addr]
  refine ⟨fun hfree => ?_, fun htaken => ?_⟩
  · refine (exec_defreg_of_free d.init d.onWrite d.onRead rfl hfree).trans ?_
    simp [State.listing, State.addRegister, State.respond]
  · obtain ⟨i, hi⟩ := Option.ne_none_iff_exists'.1 htaken
    exact exec_defreg_of_taken d.init d.onWrite d.onRead rfl hi

/-- Every window is checked by itself, beside those already listed, and beside the earlier ones of the list. -/
theorem mapWindows_listing (rest : List Window) :
    DecidedBy ((∀ w ∈ rest, w.FitsIn sizes) ∧ rest.Pairwise Window.Compatible ∧
        ∀ v ∈ ws, ∀ w ∈ rest, v.Compatible w)
      (s.listing ⟨sizes, ws ++ rest, ds⟩) (mapWindows rest (s.listing ⟨sizes, ws, ds⟩)) := by
  induction rest generalizing ws with
  | nil => exact ⟨fun _ => by rw [List.append_nil]; rfl, fun hbad => absurd (by simp) hbad⟩
  | cons w rest ih =>
    have hparts := (execMapwindow_listing s sizes ws ds w).andThen (ih (ws ++ [w]))
    rw [List.append_assoc] at hparts
    refine hparts.congr ?_
    simp only [List.forall_mem_cons, List.pairwise_cons, List.forall_mem_append, List.not_mem_nil, false_imp_iff,
      implies_true, and_true, forall_and]
    tauto

/-- Every register's address is compared with those already listed, and with the earlier ones of the list. -/
theorem defineRegisters_listing (rest : List RegDesc) :
    DecidedBy ((rest.map RegDesc.addr).Nodup ∧ ∀ d ∈ ds, ∀ e ∈ rest, d.addr ≠ e.addr)
      (s.listing ⟨sizes, ws, ds ++ rest⟩) (defineRegisters rest (s.listing ⟨sizes, ws, ds⟩)) := by
  induction rest generalizing ds with
  | nil => exact ⟨fun _ => by rw [List.append_nil]; rfl, fun hbad => absurd (by simp) hbad⟩
  | cons d rest ih =>
    have hparts := (execDefreg_listing s sizes ws ds d).andThen (ih (ds ++ [d]))
    rw [List.append_assoc] at hparts
    refine hparts.congr ?_
    have hnew : d.addr ∉ rest.map RegDesc.addr ↔ ∀ e ∈ rest, d.addr ≠ e.addr := by
      simp [eq_comm]
    simp only [List.map_cons, List.nodup_cons, hnew, List.forall_mem_cons, List.forall_mem_append, List.not_mem_nil,
      false_imp_iff, implies_true, and_true, forall_and]
    tauto

end Parts

theorem execEndConstruct_listing (s : State) (cfg : BusConfig) :
    DecidedBy (∀ d ∈ cfg.registers, ∀ w ∈ cfg.windows,
        ¬ (w.base.toNat ≤ d.addr.toNat ∧ d.addr.toNat < w.base.toNat + w.length))
      (s.listing cfg).enterRun (execEndConstruct (s.listing cfg)) := by
  have hpart := (s.listing cfg).partitionOk_iff.trans List.forall_mem_map
  exact DecidedBy.congr ⟨fun hok => if_pos hok, fun hbad => if_neg hbad⟩ hpart

/-! ### The parts together -/

theorem Window.Compatible.symm {v w : Window} (h : v.Compatible w) : w.Compatible v :=
  h.imp Eq.symm fun hapart => by
    rw [Window.overlaps_eq_false_iff] at hapart ⊢
    exact hapart.symm

/-- Validity, said in the order in which CONSTRUCT checks it (42_bus.md R123). -/
theorem BusConfig.valid_iff (cfg : BusConfig) :
    cfg.Valid ↔
      ((∀ w ∈ cfg.windows, w.FitsIn cfg.regions) ∧ cfg.windows.Pairwise Window.Compatible) ∧
        (cfg.registers.map RegDesc.addr).Nodup ∧
          ∀ d ∈ cfg.registers, ∀ w ∈ cfg.windows,
            ¬ (w.base.toNat ≤ d.addr.toNat ∧ d.addr.toNat < w.base.toNat + w.length) := by
  refine ⟨fun h => ?_, fun ⟨⟨hfit, hcompatible⟩, hdistinct, houtside⟩ => ?_⟩
  · exact ⟨⟨h.windows_fit, List.pairwise_of_forall_mem_list fun _ hv _ hw => h.compatible hv hw⟩, h.registers_distinct,
      h.registers_outside⟩
  · refine ⟨hfit, fun v hv w hw hne A => ?_, hdistinct, houtside⟩
    have hsymm : Std.Symm Window.Compatible := ⟨fun _ _ => Window.Compatible.symm⟩
    have hvw : v.Compatible w :=
      List.Pairwise.forall_of_forall (R := Window.Compatible) (fun _ _ => Or.inl rfl) hcompatible hv hw
    have hapart := (v.overlaps_eq_false_iff w.base w.length).1 (hvw.resolve_left hne)
    omega

/-- CONSTRUCT over legal region sizes is decided by the validity of the configuration. -/
theorem construct_decidedBy_valid (cfg : BusConfig) (s : State) (hsizes : ∀ n ∈ cfg.regions, 1 ≤ n ∧ n ≤ 2 ^ 32) :
    DecidedBy cfg.Valid (s.listing cfg).enterRun (construct cfg s) := by
  have hwindows := mapWindows_listing s cfg.regions [] [] cfg.windows
  have hregisters := defineRegisters_listing s cfg.regions cfg.windows [] cfg.registers
  rw [List.nil_append] at hwindows hregisters
  rw [construct, execBeginConstruct_eq_listing s hsizes, andThen_next_left]
  refine DecidedBy.congr (hwindows.andThen (hregisters.andThen (execEndConstruct_listing s cfg))) ?_
  simp only [cfg.valid_iff, List.not_mem_nil, false_imp_iff, implies_true, and_true]

end Sys2Proof.Machine
end

section
/-! SUPPORT. CONSTRUCT put at P_CFG input by input: what waits at the ports changes no outcome, and the inputs of a
configuration, performed one after another, are CONSTRUCT of it. -/

namespace Sys2Proof.Machine

/-! ### What waits at the ports -/

/-- An operation neither reads nor changes what waits at the ports. -/
def IgnoresPorts (f : State → Host.Outcome State Fault Refusal) : Prop :=
  ∀ (s : State) (rest : List PortInput), f (s.withPending rest) = andThen (f s) fun t => .next (t.withPending rest)

theorem execBeginConstruct_ignoresPorts (sizes : List Nat) : IgnoresPorts (execBeginConstruct sizes) := by
  intro s rest
  unfold execBeginConstruct
  split <;> rfl

theorem execMapwindow_ignoresPorts (base : Word) (length region : Nat) :
    IgnoresPorts (execMapwindow base length region) := by
  intro s rest
  cases hphase : s.phase with
  | run => simp only [execMapwindow, State.withPending_phase, hphase, andThen]
  | construction =>
    have hok : (s.withPending rest).windowOk base length region = s.windowOk base length region := rfl
    simp only [execMapwindow, State.withPending_phase, hphase, hok]
    split <;> rfl

theorem execDefreg_ignoresPorts (addr init : Word) (onWrite : WriteHandler) (onRead : ReadHandler) :
    IgnoresPorts (execDefreg addr init onWrite onRead) := by
  intro s rest
  cases hphase : s.phase with
  | run => simp only [execDefreg, State.withPending_phase, hphase, andThen]
  | construction =>
    have hfind : (s.withPending rest).findReg addr = s.findReg addr := rfl
    simp only [execDefreg, State.withPending_phase, hphase, hfind]
    cases s.findReg addr <;> rfl

theorem execEndConstruct_ignoresPorts : IgnoresPorts execEndConstruct := by
  intro s rest
  cases hphase : s.phase with
  | run => simp only [execEndConstruct, State.withPending_phase, hphase, andThen]
  | construction =>
    have hpart : (s.withPending rest).partitionOk = s.partitionOk := rfl
    simp only [execEndConstruct, State.withPending_phase, hphase, hpart]
    split <;> rfl

/-! ### Inputs one after another -/

/-- The inputs performed in order, each whole. -/
def performAll : List PortInput → State → Host.Outcome State Fault Refusal
  | [], s => .next s
  | p :: rest, s => andThen (perform p s) (performAll rest)

theorem performAll_append (ps qs : List PortInput) (s : State) :
    performAll (ps ++ qs) s = andThen (performAll ps s) (performAll qs) := by
  induction ps generalizing s with
  | nil => rfl
  | cons p ps ih =>
    rw [List.cons_append, performAll, performAll, andThen_assoc]
    exact congrArg (andThen (perform p s)) (funext ih)

/-- As many steps as inputs wait perform them all. -/
theorem run_eq_performAll {ps : List PortInput} (hps : ∀ p ∈ ps, IgnoresPorts (perform p)) (s : State) :
    Sys2Proof.core.run ps.length (s.withPending ps) = andThen (performAll ps s) fun t => .next (t.withPending []) := by
  induction ps generalizing s with
  | nil => rfl
  | cons p ps ih =>
    obtain ⟨hp, hrest⟩ := List.forall_mem_cons.1 hps
    have hstep : step (s.withPending (p :: ps)) = andThen (perform p s) fun t => .next (t.withPending ps) := hp s ps
    rw [List.length_cons, core_run_succ, hstep, performAll, andThen_assoc (perform p s) (performAll ps)]
    exact (andThen_assoc _ _ _).trans (congrArg (andThen (perform p s)) (funext (ih hrest)))

/-! ### The script of a configuration -/

/-- Every window of the configuration can be put on the operand buses of MAPWINDOW (30_encoding.md R81). -/
def BusConfig.FitsBuses (cfg : BusConfig) : Prop :=
  ∀ w ∈ cfg.windows, (Instr.mapwindow w.base w.length w.region).wellFormed = true

theorem BusConfig.Valid.fitsBuses {cfg : BusConfig} (h : cfg.Valid) (hregions : cfg.regions.length ≤ 2 ^ 32) :
    cfg.FitsBuses := by
  intro w hw
  obtain ⟨S, hS, -, hend, -⟩ := h.windows_fit w hw
  obtain ⟨hregion, -⟩ := List.getElem?_eq_some_iff.1 hS
  refine Bool.and_eq_true_iff.2 ⟨decide_eq_true ?_, decide_eq_true ?_⟩ <;> omega

theorem perform_encode {i : Instr} (hi : i.wellFormed = true) : perform (.request (encode i)) = exec i := by
  funext s
  simp only [perform, decodeOfEncodeIsTheOperation i hi]

theorem performAll_mapwindow_requests {ws : List Window}
    (hws : ∀ w ∈ ws, (Instr.mapwindow w.base w.length w.region).wellFormed = true) :
    performAll (ws.map fun w => .request (encode (.mapwindow w.base w.length w.region))) = mapWindows ws := by
  induction ws with
  | nil => rfl
  | cons w ws ih =>
    obtain ⟨hw, hrest⟩ := List.forall_mem_cons.1 hws
    funext s
    rw [List.map_cons, performAll, perform_encode hw, ih hrest]
    rfl

theorem performAll_defreg_requests (ds : List RegDesc) :
    performAll (ds.map fun d => .request (encode (.defreg d.addr d.init d.onWrite d.onRead))) = defineRegisters ds := by
  induction ds with
  | nil => rfl
  | cons d ds ih =>
    funext s
    rw [List.map_cons, performAll, perform_encode rfl, ih]
    rfl

/-- The inputs of a configuration's script are CONSTRUCT of it, errors included (42_bus.md R123). -/
theorem performAll_script {cfg : BusConfig} (hfits : cfg.FitsBuses) : performAll cfg.script = construct cfg := by
  have hend : performAll [.endConstruct] = execEndConstruct := funext fun s => andThen_next_right (execEndConstruct s)
  funext s
  rw [BusConfig.script, performAll, construct]
  refine congrArg (andThen (execBeginConstruct cfg.regions s)) (funext fun s1 => ?_)
  rw [performAll_append, performAll_mapwindow_requests hfits]
  refine congrArg (andThen (mapWindows cfg.windows s1)) (funext fun s2 => ?_)
  rw [performAll_append, performAll_defreg_requests, hend]

theorem BusConfig.FitsBuses.script_ignoresPorts {cfg : BusConfig} (hfits : cfg.FitsBuses) :
    ∀ p ∈ cfg.script, IgnoresPorts (perform p) := by
  refine List.forall_mem_cons.2 ⟨execBeginConstruct_ignoresPorts cfg.regions, ?_⟩
  refine List.forall_mem_append.2 ⟨List.forall_mem_map.2 fun w hw => ?_, List.forall_mem_append.2
    ⟨List.forall_mem_map.2 fun d _ => ?_, List.forall_mem_singleton.2 execEndConstruct_ignoresPorts⟩⟩
  · rw [perform_encode (hfits w hw)]
    exact execMapwindow_ignoresPorts w.base w.length w.region
  · rw [perform_encode rfl]
    exact execDefreg_ignoresPorts d.addr d.init d.onWrite d.onRead

end Sys2Proof.Machine
end

section
/-! The statements of 42_bus.md, settled. -/

namespace Sys2Proof.Machine

/-- Settles O9: where the lookup finds a register no window matches, so the two searches never disagree. -/
theorem decodeOrderIsNotObservable : Obligations.DecodeOrderIsNotObservable := by
  intro s A hs hrun
  refine ⟨fun w i hw hreg => Option.some_ne_none w (hw.symm.trans (hs.findWindow_eq_none hrun hreg)), ?_⟩
  cases hreg : s.findReg A with
  | some i => exact State.decodeAddress_of_findReg (hs.findWindow_eq_none hrun hreg) hreg
  | none =>
    cases hw : s.findWindow A with
    | some w => simp only [State.decodeAddress, hw, State.inRange_iff]
    | none => exact State.decodeAddress_of_none hw hreg

/-- Settles O11. -/
theorem readOfRamAnswersTheWord : Obligations.ReadOfRamAnswersTheWord :=
  fun _ _ _ _ hrun hram => exec_read32_ram hrun hram

/-- Settles O12. -/
theorem readOfBadAddressAnswersZero : Obligations.ReadOfBadAddressAnswersZero :=
  fun _ _ hrun => ⟨fun _ => exec_read32_ramOutOfRange hrun, exec_read32_unmapped hrun⟩

/-- Settles O15: a bus read keeps the block, and only the response is written after it. -/
theorem readChangesNoState : Obligations.ReadChangesNoState := by
  intro s t A h
  obtain ⟨-, rfl⟩ := execRead32_next h
  have hsame := State.SameBlock.busRead32 s A
  exact ⟨hsame.trans (.respond _ _), State.ramByte_congr hsame.regions, s.pending_busRead32 A⟩

/-- Settles O16: the operation is one word store, which sets the four bytes and no other. -/
theorem writeToRamStoresFourBytes : Obligations.WriteToRamStoresFourBytes := by
  intro s A V r off hrun hram
  have hbyte (r' o : Nat) := s.ramByte_writeRam r off V r' o (State.decodeAddress_ram_region hram)
  have hstored {k : Nat} (hk : k < 4) : (s.writeRam r off V).ramByte r (off + k) = beByte V k := by
    rw [hbyte, if_pos (by omega), Nat.add_sub_cancel_left]
  exact ⟨_, exec_write32_ram V hrun hram, hstored (k := 0) (by decide), hstored (k := 1) (by decide),
    hstored (k := 2) (by decide), hstored (k := 3) (by decide), fun r' o hother => (hbyte r' o).trans (if_neg hother),
    s.configuration_writeRam r off V, rfl, rfl, rfl, rfl, rfl, rfl, rfl, rfl⟩

/-- Settles O17. -/
theorem writeToBadAddressIsDropped : Obligations.WriteToBadAddressIsDropped :=
  fun _ _ V hrun => ⟨fun _ => exec_write32_ramOutOfRange V hrun, exec_write32_unmapped V hrun⟩

/-- Settles O25. -/
theorem connectReplacesOneConnection : Obligations.ConnectReplacesOneConnection :=
  fun s k h hrun => ⟨s.conn.set k h, exec_connect_run k h hrun, s.conn.get_set_same k h,
    fun _ hk => s.conn.get_set_other h hk⟩

/-- Settles O26: the second connection is written over the first. -/
theorem lastConnectWins : Obligations.LastConnectWins := by
  intro s k h h' hrun
  have hset := s.conn.set_set k h h'
  rw [exec_connect_run k h hrun, exec_connect_run k h' hrun]
  refine (exec_connect_run (s := (s.setConn k h).respond none) k h' hrun).trans ?_
  simp only [State.setConn, State.respond, hset]

/-- Settles O30: neither operation writes what the other one checks. -/
theorem mapwindowAndDefregCommute : Obligations.MapwindowAndDefregCommute := by
  intro s base length region addr init ow ord
  cases hphase : s.phase with
  | run => rw [exec_constructionOver rfl hphase, exec_constructionOver rfl hphase]; rfl
  | construction =>
    have hmap := exec_mapwindow_construction (s := s) base length region hphase
    have hmap' := exec_mapwindow_construction (s := (s.addRegister ⟨addr, init, ow, ord⟩).respond none) base length
      region hphase
    have hok : ((s.addRegister ⟨addr, init, ow, ord⟩).respond none).windowOk base length region =
      s.windowOk base length region := rfl
    rw [hok] at hmap'
    cases hfind : s.findReg addr with
    | some i =>
      rw [exec_defreg_of_taken init ow ord hphase hfind, hmap]
      split
      · exact exec_defreg_of_taken (s := (s.addWindow base length region).respond none) init ow ord hphase hfind
      · rfl
    | none =>
      rw [exec_defreg_of_free init ow ord hphase hfind, hmap]
      refine Eq.trans ?_ hmap'.symm
      split
      · exact exec_defreg_of_free (s := (s.addWindow base length region).respond none) init ow ord hphase hfind
      · rfl

/-- Settles O32: the checks of CONSTRUCT, taken together, are the validity of the record. -/
theorem constructBuildsExactlyTheValid : Obligations.ConstructBuildsExactlyTheValid := by
  intro cfg s hsizes
  have hconstruct := construct_decidedBy_valid cfg s hsizes
  exact ⟨hconstruct.completes, hconstruct.faults⟩

/-- Settles O33. -/
theorem flamessimConstructs : Obligations.FlamessimConstructs := by
  intro m hm
  have hsizes : ∀ n ∈ (flamessim m).regions, 1 ≤ n ∧ n ≤ 2 ^ 32 := show ∀ n ∈ [S1, S2], 1 ≤ n ∧ n ≤ 2 ^ 32 by decide
  have hvalid := flamessim_valid hm
  rw [State.constructed_eq_enterRun]
  exact ⟨hvalid, (construct_decidedBy_valid _ State.blank hsizes).completes hvalid⟩

/-- Settles O34: the steps perform the script, which is CONSTRUCT of the configuration. -/
theorem stepsConstructTheBus : Obligations.StepsConstructTheBus := by
  intro cfg hsizes hregions hvalid
  have hfits := hvalid.fitsBuses hregions
  refine (run_eq_performAll hfits.script_ignoresPorts State.blank).trans ?_
  rw [performAll_script hfits, (construct_decidedBy_valid cfg State.blank hsizes).completes hvalid,
    State.constructed_eq_enterRun]
  rfl

/-- Settles O47. -/
theorem storageIgnoresConnectionsAndOutputs : Obligations.StorageIgnoresConnectionsAndOutputs := by
  intro i s s' t hregions hwin hreg hphase hexec
  have hsame : s.SameStorage s' := ⟨hregions, hwin, hreg, hphase⟩
  obtain ⟨t', hexec', hleft⟩ := hsame.exec hexec
  exact ⟨t', hexec', hleft.regions, hleft.win, hleft.reg, hleft.phase⟩

/-- Settles O48: with empty tables every address decodes to nothing. -/
theorem emptyBusAnswersZero : Obligations.EmptyBusAnswersZero := by
  intro s A V hrun hwin hreg
  have hunmapped : s.decodeAddress A = .unmapped :=
    State.decodeAddress_of_none (by rw [State.findWindow, hwin]; rfl) (by rw [State.findReg, hreg]; rfl)
  exact ⟨exec_read32_unmapped hrun hunmapped, exec_write32_unmapped V hrun hunmapped⟩

end Sys2Proof.Machine
end

section
/-! SUPPORT. An operation of the run phase completes on a running bus: none faults and none is refused. -/

namespace Sys2Proof.Machine

/-- Unmapped and OutOfRange are recovered inside the operation (60_exceptions.md R206), so no operand stops one. -/
theorem exec_completes {i : Instr} {s : State} (hrun : s.phase = .run) (hi : i.phase = .run) :
    ∃ t, exec i s = .next t := by
  cases i with
  | read32 A => exact ⟨_, exec_read32_run A hrun⟩
  | write32 A V => exact ⟨_, exec_write32_run A V hrun⟩
  | connect k c => exact ⟨_, exec_connect_run k c hrun⟩
  | mapwindow | defreg => cases hi

end Sys2Proof.Machine
end

section
/-! The statement of 60_exceptions.md, settled. -/

namespace Sys2Proof.Machine

/-- Settles O40, by induction on the script: each operation completes and leaves the bus running for the next. -/
theorem runOperationsAlwaysComplete : Obligations.RunOperationsAlwaysComplete := by
  intro ops
  induction ops with
  | nil => exact fun s _ _ => ⟨s, rfl⟩
  | cons i rest ih =>
    intro s hrun hops
    obtain ⟨hi, hrest⟩ := List.forall_mem_cons.1 hops
    obtain ⟨u, hfirst⟩ := exec_completes hrun hi
    obtain ⟨-, hrun'⟩ := exec_keeps_configuration hrun hfirst
    rw [issue, hfirst, andThen_next_left]
    exact ih u hrun' hrest

end Sys2Proof.Machine
end

section
/-! SUPPORT. The state CONSTRUCT leaves, over any configuration: RAM all zero, every shadow at its initial value, no
connection (10_state.md R40 to R43). -/

namespace Sys2Proof.Machine

/-- R40. A region that does not exist has no byte to be other than zero. -/
theorem State.ramByte_constructed (cfg : BusConfig) (r o : Nat) :
    (State.constructed cfg).ramByte r o = unwrittenByte := by
  simp only [State.ramByte, State.constructed, List.getElem?_map]
  cases cfg.regions[r]? <;> rfl

/-- R42, of the register table. -/
theorem State.shadow_of_mem_constructed_reg {cfg : BusConfig} {x : IoRegister}
    (hx : x ∈ (State.constructed cfg).reg) : x.shadow = x.desc.init := by
  obtain ⟨d, -, rfl⟩ := List.mem_map.1 hx
  rfl

/-- R42, of the observation of one shadow. -/
theorem State.shadow?_constructed (cfg : BusConfig) (i : Nat) :
    (State.constructed cfg).shadow? i = cfg.registers[i]?.map RegDesc.init := by
  simp only [State.shadow?, State.constructed, List.getElem?_map, Option.map_map]
  rfl

/-- R43. -/
theorem Connections.get_unconnected (k : PeripheralKind) : Connections.unconnected.get k = none := by
  cases k <;> rfl

theorem State.constructed_flamessim (m : AddressMap) : (State.constructed (flamessim m)).Flamessim m where
  running := rfl
  configured := State.constructed_configuration (flamessim m)

end Sys2Proof.Machine
end

section
/-! The statements of 70_reset_and_hazards.md, settled. -/

namespace Sys2Proof.Machine

/-- Settles O35, with the opaque map of notes/assumptions/1.md: reset is CONSTRUCT's result over FLAMESSIM, whose
registers 0, 1 and 2 are background colour, input state and tone frequency. -/
theorem resetIsTheConstructedInstance : Obligations.ResetIsTheConstructedInstance := by
  have hreset : State.reset.Flamessim Config.addressMap := State.constructed_flamessim Config.addressMap
  have hshadow := State.shadow?_constructed (flamessim Config.addressMap)
  exact ⟨Config.addressMap, Config.addressMap_admissible, hreset, State.ramByte_constructed _,
    congrArg BusConfig.regions hreset.configured,
    fun _ _ hx => State.shadow_of_mem_constructed_reg (List.mem_of_getElem? hx),
    ⟨hshadow 0, hshadow 1, hshadow 2⟩, Connections.get_unconnected, rfl⟩

/-- Settles O36: CONSTRUCT over an admissible map meets the invariant, and of reset's map only that it is admissible is
used. -/
theorem resetMeetsTheInvariant : Obligations.ResetMeetsTheInvariant :=
  flamessim_constructed_inv Config.addressMap_admissible

end Sys2Proof.Machine
end
